-- ==== Sys2Proof/Word.lean ====
section
/-! DEFINITION. The word types of UNPK (00_scope.md R5): widths only, no operation. -/

namespace Sys2Proof

/-- The encoded word, `WORD_W` = 32 bits (00_scope.md R5, 30_encoding.md R60). -/
abbrev Word32 := BitVec 32

/-- One chunk of the operand source, `CHUNK_W` = 16 bits (00_scope.md R5). -/
abbrev Chunk := BitVec 16

/-- A signed 64-bit register, `RES_W` = 64 (00_scope.md R5): its number is `BitVec.toInt`, a member of `I64`.
PRESUMED (log 9, safe): held in two's complement, as the spec's G3 says; the rules work on the number. -/
abbrev I64 := BitVec 64

/-- One operator code, `OPC_W` = 2 bits (30_encoding.md R65). -/
abbrev OpCode := BitVec 2

/-- One operator token of ENC, `TOK_W` = 8 bits (30_encoding.md R71). -/
abbrev Token := BitVec 8

end Sys2Proof
end

