-- ==== Sys2Proof/Syntax.lean ====
section
/-! DEFINITION. Every row of spec/opcode_table.json as a constructor of `Instr`, and the data an instruction, a
command packet, a response of the operand source and a host action are made of. -/

namespace Sys2Proof

/-- An operator, 30_encoding.md R65. -/
inductive Op where
  | add
  | sub
  | mul
  | div
  deriving DecidableEq, Repr, Inhabited

/-- Where the reducer applies an operator (42_alu.md R120: "`a` is the left operand (the accumulator, or
`VAL[CUR]`), `b` the right operand"): pass 1 at the cursor `CUR` (43_evaluators.md R144), or iteration `j` of the
fold (R145). DEDUCED (log 3): the operator code itself carries no operand. -/
inductive AluSite where
  | pass1
  | fold (j : Fin 8)
  deriving DecidableEq, Repr

/-- The instructions: one constructor per row of the opcode table, in the table's order. -/
inductive Instr where
  /-- CMD 0, 40_codec.md R80: decode the word `w` (the argument `ARG_WORD`). -/
  | dec (w : Word32)
  /-- CMD 1, 43_evaluators.md R141. -/
  | evalP2
  /-- CMD 2, 43_evaluators.md R142. -/
  | evalGen
  /-- CMD 3, 43_evaluators.md R143. -/
  | evalPrec
  /-- CMD 4, 40_codec.md R84: the arguments `ARG_N`, `ARG_D`, `ARG_TOK[0..7]`. -/
  | enc (n d : BitVec 8) (tok : Vector Token 8)
  /-- CMD 5, 30_encoding.md R69. -/
  | cmdReserved5
  /-- CMD 6, 30_encoding.md R69. -/
  | cmdReserved6
  /-- CMD 7, 30_encoding.md R69. -/
  | cmdReserved7
  /-- The one illegal encoded word, 30_encoding.md R67. -/
  | zeroWord
  /-- Format EXPR1 of 30_encoding.md R62; `pad` holds the ignored bits (R66). -/
  | expr1 (op0 : Op) (dm1 : BitVec 4) (pad : BitVec 23)
  /-- Format EXPR2 of R62. -/
  | expr2 (op0 op1 : Op) (dm1 : BitVec 4) (pad : BitVec 21)
  /-- Format EXPR3 of R62. -/
  | expr3 (op0 op1 op2 : Op) (dm1 : BitVec 4) (pad : BitVec 19)
  /-- Format EXPR4 of R62. -/
  | expr4 (op0 op1 op2 op3 : Op) (dm1 : BitVec 4) (pad : BitVec 17)
  /-- Format EXPR5 of R62. -/
  | expr5 (op0 op1 op2 op3 op4 : Op) (dm1 : BitVec 4) (pad : BitVec 15)
  /-- Format EXPR6 of R62. -/
  | expr6 (op0 op1 op2 op3 op4 op5 : Op) (dm1 : BitVec 4) (pad : BitVec 13)
  /-- Format EXPR7 of R62. -/
  | expr7 (op0 op1 op2 op3 op4 op5 op6 : Op) (dm1 : BitVec 4) (pad : BitVec 11)
  /-- Format EXPR8 of R62. -/
  | expr8 (op0 op1 op2 op3 op4 op5 op6 op7 : Op) (dm1 : BitVec 4) (pad : BitVec 9)
  /-- Operator code 0 at a site of the reducer, 42_alu.md R121. -/
  | add (site : AluSite)
  /-- Operator code 1, R122. -/
  | sub (site : AluSite)
  /-- Operator code 2, R123. -/
  | mul (site : AluSite)
  /-- Operator code 3, R124. -/
  | div (site : AluSite)
  /-- Token `+` in `ARG_TOK[i]`, 30_encoding.md R71. -/
  | tokAdd (i : Fin 8)
  /-- Token `-` in `ARG_TOK[i]`, R71. -/
  | tokSub (i : Fin 8)
  /-- Token `*` in `ARG_TOK[i]`, R71. -/
  | tokMul (i : Fin 8)
  /-- Token `/` in `ARG_TOK[i]`, R71. -/
  | tokDiv (i : Fin 8)
  deriving DecidableEq, Repr

/-- What the host hands the block with one command (10_state.md R24): the 3-bit command code and all its
arguments. An argument a command does not use is ignored. -/
structure Packet where
  cmd : BitVec 3
  argWord : Word32
  argN : BitVec 8
  argD : BitVec 8
  argTok : Vector Token 8
  deriving DecidableEq, Repr

/-- A piece of encoded input in one of the four formats of spec/opcode_table.json, with the place an operator
code or a token stands in (which is not part of its bits). -/
inductive Coded where
  | command (p : Packet)
  | word (w : Word32)
  | operator (c : OpCode) (site : AluSite)
  | token (t : Token) (i : Fin 8)
  deriving DecidableEq, Repr

/-- Why a piece of encoded input is no instruction: only an operator token outside the four characters of
30_encoding.md R71. -/
inductive DecodeError where
  | unknownToken (t : Token)
  deriving DecidableEq, Repr

/-- One response of the operand source (10_state.md R25). -/
inductive Response where
  | ok (v : Chunk)
  | malformed
  deriving DecidableEq, Repr, Inhabited

/-- The registers the host may read (10_state.md R26). `irOp i` is slot `i` of `IR.OP`. DESIGN CHOICE (log 18, unsafe):
10_state.md R28 has one row for `IR.OP[0..7]` and the spec does not say whether a host reads it whole or slot by slot;
the model reads each slot as a register of its own. -/
inductive RegId where
  | status
  | irValid
  | irNm1
  | irDm1
  | irOp (i : Fin 8)
  | word
  | res
  | resValid
  | rdcnt
  deriving DecidableEq, Repr

end Sys2Proof
end

