-- ==== Sys2Proof/WellFormed.lean ====
section
/-! DEFINITION. Which instructions some encoded input stands for. The types bound every field already; the one
check left is the zero word. -/

namespace Sys2Proof

/-- An instruction is well formed unless it is EXPR1 with every field 0: that word is `ZERO_WORD`, matched before
EXPR1 (30_encoding.md R67, and the row ZERO_WORD of spec/opcode_table.json). -/
def Instr.wellFormed : Instr → Bool
  | .expr1 op0 dm1 pad => !(op0 == .add && dm1 == 0 && pad == 0)
  | .dec _ | .evalP2 | .evalGen | .evalPrec | .enc _ _ _ => true
  | .cmdReserved5 | .cmdReserved6 | .cmdReserved7 | .zeroWord => true
  | .expr2 _ _ _ _ | .expr3 _ _ _ _ _ | .expr4 _ _ _ _ _ _ | .expr5 _ _ _ _ _ _ _ => true
  | .expr6 _ _ _ _ _ _ _ _ | .expr7 _ _ _ _ _ _ _ _ _ | .expr8 _ _ _ _ _ _ _ _ _ _ => true
  | .add _ | .sub _ | .mul _ | .div _ => true
  | .tokAdd _ | .tokSub _ | .tokMul _ | .tokDiv _ => true

end Sys2Proof
end

