-- ==== Sys2Proof/Decode.lean ====
section
/-! DEFINITION. From encoded input to instructions, total, rejecting by name; and back. Layouts from
30_encoding.md R62, R65, R68, R71. -/

namespace Sys2Proof

/-- The operator of a 2-bit code, 30_encoding.md R65; every code is defined. -/
def Op.ofCode (c : OpCode) : Op :=
  if c = 0 then .add else if c = 1 then .sub else if c = 2 then .mul else .div

/-- The 2-bit code of an operator, 30_encoding.md R65. -/
def Op.code : Op → OpCode
  | .add => 0
  | .sub => 1
  | .mul => 2
  | .div => 3

/-- The operator whose code stands in bits `lo+1 : lo` of `w`. -/
def opAt (w : Word32) (lo : Nat) : Op := Op.ofCode (w.extractLsb' lo 2)

/-- The layout of an encoded word, the table of 30_encoding.md R62; bits 31:29 decide where the rest is (R63), and
the zero word is matched first (R67). -/
def decodeWord (w : Word32) : Instr :=
  let nm1 := w.extractLsb' 29 3
  if w = 0 then .zeroWord
  else if nm1 = 0 then .expr1 (opAt w 27) (w.extractLsb' 23 4) (w.extractLsb' 0 23)
  else if nm1 = 1 then .expr2 (opAt w 27) (opAt w 25) (w.extractLsb' 21 4) (w.extractLsb' 0 21)
  else if nm1 = 2 then .expr3 (opAt w 27) (opAt w 25) (opAt w 23) (w.extractLsb' 19 4) (w.extractLsb' 0 19)
  else if nm1 = 3 then
    .expr4 (opAt w 27) (opAt w 25) (opAt w 23) (opAt w 21) (w.extractLsb' 17 4) (w.extractLsb' 0 17)
  else if nm1 = 4 then
    .expr5 (opAt w 27) (opAt w 25) (opAt w 23) (opAt w 21) (opAt w 19) (w.extractLsb' 15 4) (w.extractLsb' 0 15)
  else if nm1 = 5 then
    .expr6 (opAt w 27) (opAt w 25) (opAt w 23) (opAt w 21) (opAt w 19) (opAt w 17) (w.extractLsb' 13 4)
      (w.extractLsb' 0 13)
  else if nm1 = 6 then
    .expr7 (opAt w 27) (opAt w 25) (opAt w 23) (opAt w 21) (opAt w 19) (opAt w 17) (opAt w 15) (w.extractLsb' 11 4)
      (w.extractLsb' 0 11)
  else
    .expr8 (opAt w 27) (opAt w 25) (opAt w 23) (opAt w 21) (opAt w 19) (opAt w 17) (opAt w 15) (opAt w 13)
      (w.extractLsb' 9 4) (w.extractLsb' 0 9)

/-- The command codes of 30_encoding.md R68 and R69; an argument the command does not use is ignored
(10_state.md R24). -/
def decodePacket (p : Packet) : Instr :=
  if p.cmd = 0 then .dec p.argWord
  else if p.cmd = 1 then .evalP2
  else if p.cmd = 2 then .evalGen
  else if p.cmd = 3 then .evalPrec
  else if p.cmd = 4 then .enc p.argN p.argD p.argTok
  else if p.cmd = 5 then .cmdReserved5
  else if p.cmd = 6 then .cmdReserved6
  else .cmdReserved7

/-- An operator code at a site of the reducer, 30_encoding.md R65. -/
def decodeOperator (c : OpCode) (site : AluSite) : Instr :=
  match Op.ofCode c with
  | .add => .add site
  | .sub => .sub site
  | .mul => .mul site
  | .div => .div site

/-- `TokCode(t)`, 30_encoding.md R71: the operator a token names, or `none`. -/
def tokOp (t : Token) : Option Op :=
  if t = 0x2B then some .add
  else if t = 0x2D then some .sub
  else if t = 0x2A then some .mul
  else if t = 0x2F then some .div
  else none

/-- A token in `ARG_TOK[i]`, 30_encoding.md R71; a value outside the four is rejected by name. -/
def decodeToken (t : Token) (i : Fin 8) : Except DecodeError Instr :=
  match tokOp t with
  | some .add => .ok (.tokAdd i)
  | some .sub => .ok (.tokSub i)
  | some .mul => .ok (.tokMul i)
  | some .div => .ok (.tokDiv i)
  | none => .error (.unknownToken t)

/-- Decoding in each of the four formats of spec/opcode_table.json, total. -/
def decode : Coded → Except DecodeError Instr
  | .command p => .ok (decodePacket p)
  | .word w => .ok (decodeWord w)
  | .operator c site => .ok (decodeOperator c site)
  | .token t i => decodeToken t i

/-- Eight zero tokens: the argument of a command that has none. -/
def noTokens : Vector Token 8 := #v[0, 0, 0, 0, 0, 0, 0, 0]

/-- A packet of a command without arguments. -/
def plainPacket (cmd : BitVec 3) : Packet := ⟨cmd, 0, 0, 0, noTokens⟩

/-- The encoded input an instruction is read from: the layouts of 30_encoding.md R62, the command codes of R68 and
R69, the operator codes of R65 and the token codes of R71. -/
def encode : Instr → Coded
  | .dec w => .command ⟨0, w, 0, 0, noTokens⟩
  | .evalP2 => .command (plainPacket 1)
  | .evalGen => .command (plainPacket 2)
  | .evalPrec => .command (plainPacket 3)
  | .enc n d tok => .command ⟨4, 0, n, d, tok⟩
  | .cmdReserved5 => .command (plainPacket 5)
  | .cmdReserved6 => .command (plainPacket 6)
  | .cmdReserved7 => .command (plainPacket 7)
  | .zeroWord => .word 0
  | .expr1 op0 dm1 pad => .word (0#3 ++ op0.code ++ dm1 ++ pad)
  | .expr2 op0 op1 dm1 pad => .word (1#3 ++ op0.code ++ op1.code ++ dm1 ++ pad)
  | .expr3 op0 op1 op2 dm1 pad => .word (2#3 ++ op0.code ++ op1.code ++ op2.code ++ dm1 ++ pad)
  | .expr4 op0 op1 op2 op3 dm1 pad => .word (3#3 ++ op0.code ++ op1.code ++ op2.code ++ op3.code ++ dm1 ++ pad)
  | .expr5 op0 op1 op2 op3 op4 dm1 pad =>
    .word (4#3 ++ op0.code ++ op1.code ++ op2.code ++ op3.code ++ op4.code ++ dm1 ++ pad)
  | .expr6 op0 op1 op2 op3 op4 op5 dm1 pad =>
    .word (5#3 ++ op0.code ++ op1.code ++ op2.code ++ op3.code ++ op4.code ++ op5.code ++ dm1 ++ pad)
  | .expr7 op0 op1 op2 op3 op4 op5 op6 dm1 pad =>
    .word (6#3 ++ op0.code ++ op1.code ++ op2.code ++ op3.code ++ op4.code ++ op5.code ++ op6.code ++ dm1 ++ pad)
  | .expr8 op0 op1 op2 op3 op4 op5 op6 op7 dm1 pad =>
    .word (7#3 ++ op0.code ++ op1.code ++ op2.code ++ op3.code ++ op4.code ++ op5.code ++ op6.code ++ op7.code
      ++ dm1 ++ pad)
  | .add site => .operator 0 site
  | .sub site => .operator 1 site
  | .mul site => .operator 2 site
  | .div site => .operator 3 site
  | .tokAdd i => .token 0x2B i
  | .tokSub i => .token 0x2D i
  | .tokMul i => .token 0x2A i
  | .tokDiv i => .token 0x2F i

/-- The encoded input that an opcode-table word of `nbits` bits stands for: 32 bits are an encoded word, 2 bits an
operator code (at fold index 0), up to 8 bits a command code without arguments if below 8, else a token in slot 0.
DESIGN CHOICE (log 13, safe): in whole bytes a command code and an operator code look alike, and the command is
taken, the only one of the two a host can issue. -/
def tableCoded (nbits w : Nat) : Coded :=
  if 8 < nbits then .word (BitVec.ofNat 32 w)
  else if nbits = 2 then .operator (BitVec.ofNat 2 w) (.fold 0)
  else if w < 8 then .command (plainPacket (BitVec.ofNat 3 w))
  else .token (BitVec.ofNat 8 w) 0

/-- What the decoder reads from an opcode-table word of `nbits` bits. -/
def decodeTableWord (nbits w : Nat) : Option Instr :=
  match decode (tableCoded nbits w) with
  | .ok i => some i
  | .error _ => none

end Sys2Proof
end

