-- ==== Sys2Proof/Config.lean ====
section
/-! DEFINITION. What the spec leaves to a platform or to the environment: constants with no body, so that no
proof can see a value of theirs. -/

namespace Sys2Proof

/-- FREE VALUE (log 7, safe). The responses of an infinite operand source past the ones listed in State, by
position (10_state.md R25 "finite or infinite"): nothing constrains them. -/
opaque Config.endlessSrc : Nat → Response

/-- OPEN parameter `REGMAP` (00_scope.md R5, 20_memory.md R51, decision D20; log 11, safe): the bus address of a
host-readable register, if a platform memory-maps the block. The spec names no address. Each slot of `IR.OP` has an
address of its own: DESIGN CHOICE (log 18, unsafe). -/
opaque Config.regMap : RegId → Option Nat

end Sys2Proof
end

