-- ==== Sys2Proof/Machine/State.lean ====
section
/-! DEFINITION. The machine's state as plain data: every register of 10_state.md R28, the operand source (R25) and
what the host will do (R10, R24); and the reasons a step can stop. -/

namespace Sys2Proof.Machine

/-- The instruction register `IR`, 10_state.md R11. -/
structure Ir where
  valid : Bool
  nm1 : BitVec 3
  dm1 : BitVec 4
  op : Vector OpCode 8
  deriving DecidableEq, Repr

/-- The sequencing state `PHASE`, 10_state.md R22. -/
inductive Phase where
  | idle
  | unpack
  | pass1
  | fold
  deriving DecidableEq, Repr

/-- The spec's faults, 60_exceptions.md R171. Each is TAKEN (R181): a next state with its code in `STATUS`. -/
inductive FaultKind where
  | malformedInput
  | outOfRange
  | streamExhausted
  | unsupportedDimension
  | divideByZero
  | overflow
  | noInstruction
  | illegalCommand
  deriving DecidableEq, Repr

/-- What follows the listed responses of the operand source: the end of input (20_memory.md R41), an infinite
continuation (10_state.md R25, log 7), or no answer at all (70_reset_and_hazards.md R209, log 8). -/
inductive SrcTail where
  | ended
  | endless
  | silent
  deriving DecidableEq, Repr

/-- The operand source `SRC`, 10_state.md R25: its responses in order and the read position. -/
structure Source where
  listed : List Response
  tail : SrcTail
  pos : Nat
  deriving DecidableEq, Repr

/-- What the host does between commands: issue a command (10_state.md R24), reset the block
(70_reset_and_hazards.md R200), or present an operand source (R201, R206). -/
inductive HostAction where
  | command (p : Packet)
  | reset
  | present (src : Source)
  deriving DecidableEq, Repr

/-- The machine. -/
structure State where
  /-- The instruction register, R11. -/
  ir : Ir
  /-- `WORD`, R13. -/
  word : Word32
  /-- `RES`, R19. -/
  res : I64
  /-- `RES_VALID`, R19. -/
  resValid : Bool
  /-- `STATUS`, R20. -/
  status : BitVec 4
  /-- `RDCNT`, R21. -/
  rdcnt : BitVec 4
  /-- `VAL[0..8]`, R14. -/
  val : Vector I64 9
  /-- `WOPS[0..7]`, R15. -/
  wops : Vector OpCode 8
  /-- `WLEN`, values 0 to 8, R15. -/
  wlen : Fin 9
  /-- `CUR`, values 0 to 8, R16. -/
  cur : Fin 9
  /-- `K`, values 0 to 8, R16. -/
  k : Fin 9
  /-- `ACC`, R16. -/
  acc : I64
  /-- `PEND_BITS`, R17. -/
  pendBits : BitVec 4
  /-- `PEND_VAL`, R17. -/
  pendVal : BitVec 16
  /-- `WORK`, R18. -/
  work : BitVec 16
  /-- `PHASE`, R22. -/
  phase : Phase
  /-- The model's own (log 4): `c_0 .. c_7` of ENC's pseudocode, 40_codec.md R84. -/
  encC : Vector OpCode 8
  /-- The operand source, R25. -/
  src : Source
  /-- The model's own (log 1): what the host will still do, next first. -/
  inbox : List HostAction
  deriving DecidableEq, Repr

/-- Why a step stops without a next state. -/
inductive Fault where
  /-- Raised by `ReadChunk()` inside an EVAL command when the operand source never answers: "A source that never
  answers stalls the block for ever" (70_reset_and_hazards.md R209). A stuck state; safe (log 8). -/
  | sourceSilent
  deriving DecidableEq, Repr

/-- Why a step has no meaning. -/
inductive Refusal where
  /-- Raised only by an arm of exec that has no meaning yet; safe. No arm of this model answers with it. -/
  | notModelled (mnemonic : String)
  deriving DecidableEq, Repr

/-- The machine right after reset, 10_state.md R28 and 70_reset_and_hazards.md R200. The working registers, which
the spec leaves unspecified, are 0: DESIGN CHOICE (log 5, unsafe). `encC`, `src` and `inbox` are no registers of
the block: DESIGN CHOICE (logs 1, 4, 6), nothing staged, no chunk to read, nothing asked of the block. -/
def State.reset : State where
  ir := ⟨false, 0, 0, #v[0, 0, 0, 0, 0, 0, 0, 0]⟩
  word := 0
  res := 0
  resValid := false
  status := 0
  rdcnt := 0
  val := #v[0, 0, 0, 0, 0, 0, 0, 0, 0]
  wops := #v[0, 0, 0, 0, 0, 0, 0, 0]
  wlen := 0
  cur := 0
  k := 0
  acc := 0
  pendBits := 0
  pendVal := 0
  work := 0
  phase := .idle
  encC := #v[0, 0, 0, 0, 0, 0, 0, 0]
  src := ⟨[], .ended, 0⟩
  inbox := []

end Sys2Proof.Machine
end

