-- ==== Sys2Proof/Machine/Flags.lean ====
section
/-! DEFINITION. The codes of `STATUS` and `PHASE`, and the one test the ALU makes on its result. The ALU has no
carry, zero, sign or overflow bit (42_alu.md R120): `STATUS` is the only flag register (10_state.md R20). -/

namespace Sys2Proof.Machine

/-- `OK`, 30_encoding.md R70. -/
def statusOk : BitVec 4 := 0

/-- The `STATUS` code of a fault, 30_encoding.md R70. -/
def FaultKind.code : FaultKind → BitVec 4
  | .malformedInput => 1
  | .outOfRange => 2
  | .streamExhausted => 3
  | .unsupportedDimension => 4
  | .divideByZero => 5
  | .overflow => 6
  | .noInstruction => 7
  | .illegalCommand => 8

/-- The 3-bit value of `PHASE`, 10_state.md R22. -/
def Phase.code : Phase → BitVec 3
  | .idle => 0
  | .unpack => 1
  | .pass1 => 2
  | .fold => 3

/-- Membership in `I64`, 00_scope.md R7. -/
def inI64 (r : Int) : Bool := decide (-2 ^ 63 ≤ r) && decide (r ≤ 2 ^ 63 - 1)

/-- The range test of `ALU`, 42_alu.md R120 and R125: an exact result outside `I64` is an `Overflow`. -/
def narrow (r : Int) : Except FaultKind Int := if inI64 r then .ok r else .error .overflow

end Sys2Proof.Machine
end

