-- ==== Sys2Proof/Machine/Ops.lean ====
section
/-! DEFINITION. The shared operations over the state: how a command ends, taking a fault, reading a chunk, reset,
what the host reads, and what a step fetches. -/

namespace Sys2Proof.Machine

/-- How a command ends before its last line: a fault was raised, leaving the given state (60_exceptions.md R181), or
the operand source never answered (70_reset_and_hazards.md R209). -/
inductive Halt where
  | raised (s : State)
  | silent
  deriving DecidableEq, Repr

/-- Sequencing of pseudocode lines: "no later line of the command runs" after a `raise` (00_scope.md R8). -/
def andThen {α β : Type} (r : Except Halt α) (f : α → Except Halt β) : Except Halt β :=
  match r with
  | .ok a => f a
  | .error h => .error h

/-- Fault entry, 60_exceptions.md R181: "`PHASE <- IDLE`; `STATUS <- code(F)`; the command ends", and nothing
more. There is no return from it (R182). -/
def takeFault (f : FaultKind) (s : State) : State := { s with phase := .idle, status := f.code }

/-- `raise F`, 00_scope.md R8. -/
def raise {α : Type} (f : FaultKind) (s : State) : Except Halt α := .error (.raised (takeFault f s))

/-- The outcome of a command: a raised fault is a next state like a success (60_exceptions.md R182); only a silent
source has no next state. -/
def finish (r : Except Halt State) : Host.Outcome State Fault Refusal :=
  match r with
  | .ok s => .next s
  | .error (.raised s) => .next s
  | .error .silent => .fault .sourceSilent

/-- What the operand source says to one `ReadChunk()`, 20_memory.md R41. -/
inductive Answer where
  | chunk (v : Chunk)
  | malformed
  | endOfInput
  | never
  deriving DecidableEq, Repr

/-- A response as an answer. -/
def answerOf : Response → Answer
  | .ok v => .chunk v
  | .malformed => .malformed

/-- What stands at position `p` of the source: a listed response, or what follows them. -/
def sourceAt (src : Source) (p : Nat) : Answer :=
  match src.listed[p]? with
  | some r => answerOf r
  | none =>
    match src.tail with
    | .ended => .endOfInput
    | .endless => answerOf (Config.endlessSrc p)
    | .silent => .never

/-- Advance the read position by one, 20_memory.md R41. -/
def advance (s : State) : State := { s with src := { s.src with pos := s.src.pos + 1 } }

/-- Count a chunk that was read, 10_state.md R21. -/
def countRead (s : State) : State := { s with rdcnt := s.rdcnt + 1 }

/-- `ReadChunk()`, 20_memory.md R41: the end of input consumes nothing, a malformed response is consumed, only an
`Ok` response is counted. -/
def readChunk (s : State) : Except Halt (Chunk × State) :=
  match sourceAt s.src s.src.pos with
  | .chunk v => .ok (v, countRead (advance s))
  | .malformed => raise .malformedInput (advance s)
  | .endOfInput => raise .streamExhausted s
  | .never => .error .silent

/-- The end of a successful DEC: `IR` is written whole and `STATUS <- OK`, 40_codec.md R80. -/
def loadIr (ir : Ir) (s : State) : State := { s with ir := ir, status := statusOk }

/-- Reset, 70_reset_and_hazards.md R200: every register at its reset value; the operand source is not touched, and
neither is what the host will do next. The working registers take the values of `State.reset` (log 5, log 10). -/
def resetRegs (s : State) : State := { State.reset with src := s.src, inbox := s.inbox }

/-- Presenting an operand source, 70_reset_and_hazards.md R201 duty 2. -/
def presentSource (src : Source) (s : State) : State := { s with src := src }

/-- What a host reads in a register, 10_state.md R26, as an unsigned number of at most 64 bits (`RES` as its 64 raw
bits, R19). The width of the read is a DESIGN CHOICE (log 16), and so is reading `IR.OP` slot by slot (log 18). -/
def hostRead (r : RegId) (s : State) : BitVec 64 :=
  match r with
  | .status => s.status.setWidth 64
  | .irValid => (BitVec.ofBool s.ir.valid).setWidth 64
  | .irNm1 => s.ir.nm1.setWidth 64
  | .irDm1 => s.ir.dm1.setWidth 64
  | .irOp i => (s.ir.op[i]).setWidth 64
  | .word => s.word.setWidth 64
  | .res => s.res
  | .resValid => (BitVec.ofBool s.resValid).setWidth 64
  | .rdcnt => s.rdcnt.setWidth 64

/-- The host-readable registers, 10_state.md R26, the slots of `IR.OP` one by one: DESIGN CHOICE (log 18). -/
def hostRegs : List RegId :=
  [.status, .irValid, .irNm1, .irDm1, .irOp 0, .irOp 1, .irOp 2, .irOp 3, .irOp 4, .irOp 5, .irOp 6, .irOp 7,
    .word, .res, .resValid, .rdcnt]

/-- A host's read at a bus address, on a platform whose `REGMAP` places a register there (20_memory.md R51). -/
def busRead (addr : Nat) (s : State) : Option (BitVec 64) :=
  (hostRegs.find? fun r => Config.regMap r == some addr).map fun r => hostRead r s

/-- What a step finds to do: run a command in the given state, or be done with a state (the host did something
else, or nothing is asked of the block). -/
inductive Fetched where
  | run (p : Packet) (s : State)
  | done (s : State)
  deriving DecidableEq, Repr

/-- Take the host's next action (10_state.md R10: the host acts only between commands). With none, the block waits
(70_reset_and_hazards.md R200) and nothing changes: DESIGN CHOICE (log 1). -/
def fetch (s : State) : Fetched :=
  match s.inbox with
  | [] => .done s
  | .command p :: rest => .run p { s with inbox := rest }
  | .reset :: rest => .done (resetRegs { s with inbox := rest })
  | .present src :: rest => .done (presentSource src { s with inbox := rest })

/-- Put a command before everything else the host will do. -/
def issueFirst (p : Packet) (s : State) : State := { s with inbox := .command p :: s.inbox }

/-- The state whose next step runs an opcode-table word (log 14): a command code is issued as it is; an encoded word
is the argument of a DEC; a token is the one token of an ENC with `ARG_N = ARG_D = 1`; an operator code is the one
operator of a 1-bit expression over a source of ones, evaluated by EVAL_GEN. -/
def presentCoded (c : Coded) (s : State) : State :=
  match c with
  | .command p => issueFirst p s
  | .word w => issueFirst ⟨0, w, 0, 0, noTokens⟩ s
  | .token t _ => issueFirst ⟨4, 0, 1, 1, #v[t, 0, 0, 0, 0, 0, 0, 0]⟩ s
  | .operator code _ =>
    issueFirst (plainPacket 2)
      { s with
        ir := ⟨true, 0, 0, #v[code, 0, 0, 0, 0, 0, 0, 0]⟩
        src := ⟨[.ok 0xFFFF], .ended, 0⟩ }

end Sys2Proof.Machine
end

