-- ==== Sys2Proof/Machine/Operands.lean ====
section
/-! DEFINITION. The operand forms: the bit fields of a chunk, the two extraction modes and the unpack phase
(41_unpacker.md), and the operator slots of `IR` and `WOPS`. -/

namespace Sys2Proof.Machine

/-- `v[lo+len-1 : lo]` as a number, 00_scope.md R6; 0 when `len = 0`. -/
def field (v lo len : Nat) : Nat := v / 2 ^ lo % 2 ^ len

/-- The top `len` bits of a chunk, `c[15 : 16-len]`. -/
def topBits (c : Chunk) (len : Nat) : Chunk := BitVec.ofNat 16 (field c.toNat (16 - len) len)

/-- The low `len` bits of a chunk, `c[len-1 : 0]`. -/
def lowBits (c : Chunk) (len : Nat) : Chunk := BitVec.ofNat 16 (field c.toNat 0 len)

/-- The two extraction modes, 41_unpacker.md R101. -/
inductive ExtractMode where
  | aligned
  | carry
  deriving DecidableEq, Repr

/-- `WORK <- ReadChunk()` when operand `K` is the first of a chunk, else no read: 41_unpacker.md R102. -/
def refillWork (d : Nat) (s : State) : Except Halt State :=
  if s.k.val % (16 / d) = 0 then andThen (readChunk s) fun r => .ok { r.2 with work := r.1 } else .ok s

/-- EXTRACT_ALIGNED, 41_unpacker.md R102. -/
def extractAligned (d : Nat) (s : State) : Except Halt (Chunk × State) :=
  andThen (refillWork d s) fun s => .ok (topBits s.work d, { s with work := s.work <<< d })

/-- Write the pending bits: `PEND_BITS <- pb`, `PEND_VAL <- v[pb-1 : 0]`, 41_unpacker.md R104. -/
def keepPending (pb : Nat) (v : Chunk) (s : State) : State :=
  { s with pendBits := BitVec.ofNat 4 pb, pendVal := lowBits v pb }

/-- EXTRACT_CARRY, 41_unpacker.md R104, with its cases C, A and B in that order. -/
def extractCarry (d : Nat) (s : State) : Except Halt (Chunk × State) :=
  let pb := s.pendBits.toNat
  if d ≤ pb then
    .ok (BitVec.ofNat 16 (field s.pendVal.toNat (pb - d) d), keepPending (pb - d) s.pendVal s)
  else if pb = 0 then
    andThen (readChunk s) fun r => .ok (topBits r.1 d, keepPending (16 - d) r.1 r.2)
  else
    let l := d - pb
    andThen (readChunk s) fun r => .ok (s.pendVal <<< l ||| topBits r.1 l, keepPending (16 - l) r.1 r.2)

/-- One extraction in a mode, 41_unpacker.md R101. -/
def extract (mode : ExtractMode) (d : Nat) (s : State) : Except Halt (Chunk × State) :=
  match mode with
  | .aligned => extractAligned d s
  | .carry => extractCarry d s

/-- `K <- k` (`k` is at most 8 in every call, 41_unpacker.md R101). -/
def setK (k : Nat) (s : State) : State := { s with k := Fin.ofNat 9 k }

/-- `VAL[K] <- zext_64(v)`, 41_unpacker.md R101. -/
def writeOperand (v : Chunk) (s : State) : State := { s with val := s.val.set s.k (v.setWidth 64) }

/-- The iterations `K = k, k+1, ..` of UNPACK, `left` of them, 41_unpacker.md R101. -/
def unpackFrom (mode : ExtractMode) (d : Nat) : Nat → Nat → State → Except Halt State
  | 0, _, s => .ok s
  | left + 1, k, s =>
    andThen (extract mode d (setK k s)) fun r => unpackFrom mode d left (k + 1) (writeOperand r.1 r.2)

/-- UNPACK, 41_unpacker.md R101: the operands `K = 0 .. n`. -/
def unpack (mode : ExtractMode) (n d : Nat) (s : State) : Except Halt State := unpackFrom mode d (n + 1) 0 s

/-- The indices 0 to 7 in order. -/
def indices8 : List (Fin 8) := [0, 1, 2, 3, 4, 5, 6, 7]

/-- The first `n` codes, the other slots 0, as DEC and ENC write `IR.OP` (10_state.md R11). -/
def keepFirst (n : Nat) (codes : Vector OpCode 8) : Vector OpCode 8 :=
  Vector.ofFn fun i => if i.val < n then codes[i] else 0

/-- The slots `IR.OP` of a list of operators, the unused ones 0. -/
def slotsOf (ops : List Op) : Vector OpCode 8 :=
  Vector.ofFn fun i =>
    match ops[i.val]? with
    | some op => op.code
    | none => 0

/-- "close the gap in the operands", 43_evaluators.md R144: slot `j` takes its right neighbour's old value for
`cur+1 <= j <= wlen-1` (70_reset_and_hazards.md R202 allows all moves at once from the old values). -/
def closeVal (v : Vector I64 9) (cur wlen : Fin 9) : Vector I64 9 :=
  Vector.ofFn fun j => if h : cur.val < j.val ∧ j.val < wlen.val then v[j.val + 1] else v[j]

/-- "close the gap in the operators", 43_evaluators.md R144: the same for `cur <= j <= wlen-2`. -/
def closeOps (o : Vector OpCode 8) (cur wlen : Fin 9) : Vector OpCode 8 :=
  Vector.ofFn fun j => if h : cur.val ≤ j.val ∧ j.val + 1 < wlen.val then o[j.val + 1] else o[j]

end Sys2Proof.Machine
end

