-- ==== Sys2Proof/Machine/Codec.lean ====
section
/-! DEFINITION. The codec: DEC and ENC (40_codec.md), the encoded words DEC is given (30_encoding.md R60 to R67) and
the tokens ENC reads (R71). -/

namespace Sys2Proof.Machine

/-- The fields DEC takes from a word, in the closed form of 40_codec.md R80 (30_encoding.md R61). -/
def decIr (w : Word32) : Ir :=
  let n := (w.extractLsb' 29 3).toNat + 1
  { valid := true
    nm1 := w.extractLsb' 29 3
    dm1 := w.extractLsb' (25 - 2 * n) 4
    op := Vector.ofFn fun i => if i.val < n then w.extractLsb' (27 - 2 * i.val) 2 else 0 }

/-- DEC, 40_codec.md R80: the zero word raises `OutOfRange` and leaves `IR` untouched (R82). -/
def execDec (w : Word32) (s : State) : Host.Outcome State Fault Refusal :=
  if w = 0 then .next (takeFault .outOfRange s) else .next (loadIr (decIr w) s)

/-- What an encoded word of one of the eight layouts loads into `IR`, 30_encoding.md R62: `IR.NM1`, `IR.DM1` and the
operator slots, the unused ones 0; the padding is ignored (R66). -/
def wordIr (nm1 : BitVec 3) (dm1 : BitVec 4) (ops : List Op) : Ir := ⟨true, nm1, dm1, slotsOf ops⟩

/-- The zero word, 40_codec.md R82. -/
def execZeroWord (s : State) : Host.Outcome State Fault Refusal := .next (takeFault .outOfRange s)

/-- Format EXPR1, 30_encoding.md R62, as DEC reads it (40_codec.md R80). -/
def execExpr1 (op0 : Op) (dm1 : BitVec 4) (s : State) : Host.Outcome State Fault Refusal :=
  .next (loadIr (wordIr 0 dm1 [op0]) s)

/-- Format EXPR2. -/
def execExpr2 (op0 op1 : Op) (dm1 : BitVec 4) (s : State) : Host.Outcome State Fault Refusal :=
  .next (loadIr (wordIr 1 dm1 [op0, op1]) s)

/-- Format EXPR3. -/
def execExpr3 (op0 op1 op2 : Op) (dm1 : BitVec 4) (s : State) : Host.Outcome State Fault Refusal :=
  .next (loadIr (wordIr 2 dm1 [op0, op1, op2]) s)

/-- Format EXPR4. -/
def execExpr4 (op0 op1 op2 op3 : Op) (dm1 : BitVec 4) (s : State) : Host.Outcome State Fault Refusal :=
  .next (loadIr (wordIr 3 dm1 [op0, op1, op2, op3]) s)

/-- Format EXPR5. -/
def execExpr5 (op0 op1 op2 op3 op4 : Op) (dm1 : BitVec 4) (s : State) : Host.Outcome State Fault Refusal :=
  .next (loadIr (wordIr 4 dm1 [op0, op1, op2, op3, op4]) s)

/-- Format EXPR6. -/
def execExpr6 (op0 op1 op2 op3 op4 op5 : Op) (dm1 : BitVec 4) (s : State) : Host.Outcome State Fault Refusal :=
  .next (loadIr (wordIr 5 dm1 [op0, op1, op2, op3, op4, op5]) s)

/-- Format EXPR7. -/
def execExpr7 (op0 op1 op2 op3 op4 op5 op6 : Op) (dm1 : BitVec 4) (s : State) :
    Host.Outcome State Fault Refusal :=
  .next (loadIr (wordIr 6 dm1 [op0, op1, op2, op3, op4, op5, op6]) s)

/-- Format EXPR8. -/
def execExpr8 (op0 op1 op2 op3 op4 op5 op6 op7 : Op) (dm1 : BitVec 4) (s : State) :
    Host.Outcome State Fault Refusal :=
  .next (loadIr (wordIr 7 dm1 [op0, op1, op2, op3, op4, op5, op6, op7]) s)

/-- `c_i <- code`, a line of 40_codec.md R84 (log 4). -/
def stageCode (i : Fin 8) (c : OpCode) (s : State) : State := { s with encC := s.encC.set i c }

/-- A failed ENC: `WORD <- 0`, then the fault, 40_codec.md R85. -/
def encFail (f : FaultKind) (s : State) : State := takeFault f { s with word := 0 }

/-- "c_i <- TokCode(tok[i])", and the fault of an unrecognised token, 40_codec.md R84 and R85. -/
def stageToken (i : Fin 8) (t : Token) (s : State) : Except Halt State :=
  match tokOp t with
  | some op => .ok (stageCode i op.code s)
  | none => .error (.raised (encFail .malformedInput s))

/-- The tokens `tok[0..n-1]` in index order, 40_codec.md R84; the others are not examined. -/
def stageTokens (n : Nat) (tok : Vector Token 8) : List (Fin 8) → State → Except Halt State
  | [], s => .ok s
  | i :: rest, s =>
    if i.val < n then andThen (stageToken i tok[i] s) (stageTokens n tok rest) else .ok s

/-- Operator code `i` in its place, bits `28-2i : 27-2i`, 40_codec.md R84. -/
def placeOp (i : Nat) (code : OpCode) : Word32 := BitVec.setWidth 32 code <<< (27 - 2 * i)

/-- The operator part of an encoded word: `c_i` in bits `28-2i : 27-2i` for `i < n`, 40_codec.md R84. -/
def encOps (n : Nat) (codes : Vector OpCode 8) : Word32 :=
  indices8.foldl (fun w i => if i.val < n then w ||| placeOp i.val codes[i] else w) 0

/-- The word ENC builds, 40_codec.md R84. -/
def encWord (n d : Nat) (codes : Vector OpCode 8) : Word32 :=
  BitVec.ofNat 32 (n - 1) <<< 29 ||| encOps n codes ||| BitVec.ofNat 32 (d - 1) <<< (25 - 2 * n)

/-- The end of a successful ENC, 40_codec.md R84: `WORD` and every field of `IR` are written. -/
def encLoad (n d : Nat) (s : State) : State :=
  loadIr ⟨true, BitVec.ofNat 3 (n - 1), BitVec.ofNat 4 (d - 1), keepFirst n s.encC⟩
    { s with word := encWord n d s.encC }

/-- ENC's range test, 40_codec.md R84. -/
def encInRange (n d : Nat) : Bool := decide (1 ≤ n) && decide (n ≤ 8) && decide (1 ≤ d) && decide (d ≤ 16)

/-- ENC, 40_codec.md R84: the range test, then the tokens in index order, then the word and `IR`. -/
def execEnc (n d : BitVec 8) (tok : Vector Token 8) (s : State) : Host.Outcome State Fault Refusal :=
  if encInRange n.toNat d.toNat then
    finish (andThen (stageTokens n.toNat tok indices8 s) fun s => .ok (encLoad n.toNat d.toNat s))
  else .next (encFail .outOfRange s)

/-- Token `+` as ENC reads it in `ARG_TOK[i]`, 30_encoding.md R71. -/
def execTokAdd (i : Fin 8) (s : State) : Host.Outcome State Fault Refusal := finish (stageToken i 0x2B s)

/-- Token `-`. -/
def execTokSub (i : Fin 8) (s : State) : Host.Outcome State Fault Refusal := finish (stageToken i 0x2D s)

/-- Token `*`. -/
def execTokMul (i : Fin 8) (s : State) : Host.Outcome State Fault Refusal := finish (stageToken i 0x2A s)

/-- Token `/`. -/
def execTokDiv (i : Fin 8) (s : State) : Host.Outcome State Fault Refusal := finish (stageToken i 0x2F s)

end Sys2Proof.Machine
end

