-- ==== Sys2Proof/Machine/Alu.lean ====
section
/-! DEFINITION. The ALU's four operators (42_alu.md) and their application at the two sites of the reducer: pass 1
at the cursor (43_evaluators.md R144) and the fold at an index (R145). -/

namespace Sys2Proof.Machine

/-- ADD, 42_alu.md R121. -/
def aluAdd (a b : Int) : Except FaultKind Int := narrow (a + b)

/-- SUB, 42_alu.md R122. -/
def aluSub (a b : Int) : Except FaultKind Int := narrow (a - b)

/-- MUL, 42_alu.md R123. -/
def aluMul (a b : Int) : Except FaultKind Int := narrow (a * b)

/-- DIV, 42_alu.md R124: the quotient rounded toward zero; a zero divisor faults whatever the dividend is. -/
def aluDiv (a b : Int) : Except FaultKind Int := if b = 0 then .error .divideByZero else narrow (a.tdiv b)

/-- `ALU(op, a, b)`, 42_alu.md R120. -/
def alu (op : Op) (a b : Int) : Except FaultKind Int :=
  match op with
  | .add => aluAdd a b
  | .sub => aluSub a b
  | .mul => aluMul a b
  | .div => aluDiv a b

/-- Iteration `j` of FOLD, 43_evaluators.md R145: `ACC <- ALU(.., ACC, VAL[j+1])`; there is no iteration for
`j >= WLEN`. -/
def foldWith (f : Int → Int → Except FaultKind Int) (j : Fin 8) (s : State) : Except Halt State :=
  if j.val < s.wlen.val then
    match f s.acc.toInt (s.val[j.val + 1]).toInt with
    | .ok r => .ok { s with acc := BitVec.ofInt 64 r }
    | .error k => raise k s
  else .ok s

/-- `CUR <- CUR + 1`, the iteration of PASS1 at an Add or Sub, 43_evaluators.md R144; there is none when
`CUR >= WLEN`. -/
def pass1Skip (s : State) : State :=
  if h : s.cur.val < s.wlen.val then
    { s with cur := ⟨s.cur.val + 1, Nat.lt_of_le_of_lt (Nat.succ_le_of_lt h) s.wlen.isLt⟩ }
  else s

/-- The reduced state of an iteration of PASS1 at a Mul or Div with result `r`, 43_evaluators.md R144: the result
replaces the pair, both arrays close the gap, `WLEN` goes down by one and `CUR` stays. -/
def pass1Replace (r : Int) (s : State) : State :=
  { s with
    val := closeVal (s.val.set s.cur (BitVec.ofInt 64 r)) s.cur s.wlen
    wops := closeOps s.wops s.cur s.wlen
    wlen := ⟨s.wlen.val - 1, Nat.lt_of_le_of_lt (Nat.sub_le _ _) s.wlen.isLt⟩ }

/-- The iteration of PASS1 at a Mul or Div, 43_evaluators.md R144; there is none when `CUR >= WLEN`. -/
def pass1Reduce (f : Int → Int → Except FaultKind Int) (s : State) : Except Halt State :=
  if h : s.cur.val < s.wlen.val then
    match f (s.val[s.cur]).toInt (s.val[s.cur.val + 1]'(Nat.lt_of_le_of_lt (Nat.succ_le_of_lt h) s.wlen.isLt)).toInt with
    | .ok r => .ok (pass1Replace r s)
    | .error k => raise k s
  else .ok s

/-- ADD at a site: skipped over by pass 1, applied by the fold. -/
def addAt (site : AluSite) (s : State) : Except Halt State :=
  match site with
  | .pass1 => .ok (pass1Skip s)
  | .fold j => foldWith aluAdd j s

/-- SUB at a site: skipped over by pass 1, applied by the fold. -/
def subAt (site : AluSite) (s : State) : Except Halt State :=
  match site with
  | .pass1 => .ok (pass1Skip s)
  | .fold j => foldWith aluSub j s

/-- MUL at a site: reduced by pass 1, applied by the fold of the no-precedence evaluators. -/
def mulAt (site : AluSite) (s : State) : Except Halt State :=
  match site with
  | .pass1 => pass1Reduce aluMul s
  | .fold j => foldWith aluMul j s

/-- DIV at a site: reduced by pass 1, applied by the fold of the no-precedence evaluators. -/
def divAt (site : AluSite) (s : State) : Except Halt State :=
  match site with
  | .pass1 => pass1Reduce aluDiv s
  | .fold j => foldWith aluDiv j s

/-- The operator the reducer finds in `WOPS`, at a site. -/
def applyOp (op : Op) (site : AluSite) (s : State) : Except Halt State :=
  match op with
  | .add => addAt site s
  | .sub => subAt site s
  | .mul => mulAt site s
  | .div => divAt site s

/-- ADD, 42_alu.md R121. -/
def execAdd (site : AluSite) (s : State) : Host.Outcome State Fault Refusal := finish (addAt site s)

/-- SUB, 42_alu.md R122. -/
def execSub (site : AluSite) (s : State) : Host.Outcome State Fault Refusal := finish (subAt site s)

/-- MUL, 42_alu.md R123. -/
def execMul (site : AluSite) (s : State) : Host.Outcome State Fault Refusal := finish (mulAt site s)

/-- DIV, 42_alu.md R124. -/
def execDiv (site : AluSite) (s : State) : Host.Outcome State Fault Refusal := finish (divAt site s)

end Sys2Proof.Machine
end

