-- ==== Sys2Proof/Machine/Eval.lean ====
section
/-! DEFINITION. The evaluators EVAL_P2, EVAL_GEN, EVAL_PREC (43_evaluators.md). -/

namespace Sys2Proof.Machine

/-- Which evaluator runs, 43_evaluators.md R140. -/
inductive EvalMode where
  | p2
  | gen
  | prec
  deriving DecidableEq, Repr

/-- `N = IR.NM1 + 1`, 10_state.md R11. -/
def irN (ir : Ir) : Nat := ir.nm1.toNat + 1

/-- `D = IR.DM1 + 1`, 10_state.md R11. -/
def irD (ir : Ir) : Nat := ir.dm1.toNat + 1

/-- "RES_VALID <- 0; RDCNT <- 0", the first action of every EVAL, 43_evaluators.md R140. -/
def clearResult (s : State) : State := { s with resValid := false, rdcnt := 0 }

/-- The initialisation of an evaluation that passed its checks, 43_evaluators.md R140. -/
def startUnpack (s : State) : State :=
  { s with
    pendBits := 0
    pendVal := 0
    work := 0
    wops := s.ir.op
    wlen := ⟨irN s.ir, Nat.succ_lt_succ s.ir.nm1.isLt⟩
    phase := .unpack }

/-- The extraction mode of an evaluator, 43_evaluators.md R140. -/
def extractModeOf : EvalMode → ExtractMode
  | .p2 => .aligned
  | .gen => .carry
  | .prec => .carry

/-- The scan of PASS1, 43_evaluators.md R144; `steps` bounds its iterations, which are exactly `N` when no fault
occurs. -/
def pass1From : Nat → State → Except Halt State
  | 0, s => .ok s
  | steps + 1, s =>
    if h : s.cur.val < s.wlen.val then
      andThen
        (applyOp (Op.ofCode (s.wops[s.cur.val]'(Nat.lt_of_lt_of_le h (Nat.le_of_lt_succ s.wlen.isLt)))) .pass1 s)
        (pass1From steps)
    else .ok s

/-- PASS1, 43_evaluators.md R144. -/
def pass1 (s : State) : Except Halt State := pass1From s.wlen.val { s with cur := 0, phase := .pass1 }

/-- The iterations `j, j+1, ..` of FOLD, `left` of them (`j` is at most 7 in every call), 43_evaluators.md R145. -/
def foldFrom : Nat → Nat → State → Except Halt State
  | 0, _, s => .ok s
  | left + 1, j, s =>
    andThen (applyOp (Op.ofCode s.wops[Fin.ofNat 8 j]) (.fold (Fin.ofNat 8 j)) s) (foldFrom left (j + 1))

/-- FOLD, 43_evaluators.md R145. -/
def fold (s : State) : Except Halt State := foldFrom s.wlen.val 0 { s with acc := s.val[0], phase := .fold }

/-- Pass 1 runs in EVAL_PREC only, 43_evaluators.md R140. -/
def reduceHigh (mode : EvalMode) (s : State) : Except Halt State :=
  match mode with
  | .p2 => .ok s
  | .gen => .ok s
  | .prec => pass1 s

/-- "RES <- ACC; RES_VALID <- 1; PHASE <- IDLE; STATUS <- OK", 43_evaluators.md R140. -/
def writeResult (s : State) : State :=
  { s with res := s.acc, resValid := true, phase := .idle, status := statusOk }

/-- What an evaluation does after its checks, 43_evaluators.md R140. -/
def evalBody (mode : EvalMode) (s : State) : Except Halt State :=
  andThen (unpack (extractModeOf mode) (irN s.ir) (irD s.ir) (startUnpack s)) fun s =>
    andThen (reduceHigh mode s) fun s => andThen (fold s) fun s => .ok (writeResult s)

/-- The frame of every evaluation command, 43_evaluators.md R140. -/
def eval (mode : EvalMode) (s : State) : Except Halt State :=
  if s.ir.valid = false then raise .noInstruction (clearResult s)
  else if mode = .p2 ∧ 16 % irD s.ir ≠ 0 then raise .unsupportedDimension (clearResult s)
  else evalBody mode (clearResult s)

/-- EVAL_P2, 43_evaluators.md R141. -/
def execEvalP2 (s : State) : Host.Outcome State Fault Refusal := finish (eval .p2 s)

/-- EVAL_GEN, 43_evaluators.md R142. -/
def execEvalGen (s : State) : Host.Outcome State Fault Refusal := finish (eval .gen s)

/-- EVAL_PREC, 43_evaluators.md R143. -/
def execEvalPrec (s : State) : Host.Outcome State Fault Refusal := finish (eval .prec s)

end Sys2Proof.Machine
end

