-- ==== Sys2Proof/Machine/Reserved.lean ====
section
/-! DEFINITION. The reserved command codes 5, 6 and 7 (30_encoding.md R69). -/

namespace Sys2Proof.Machine

/-- CMD 5: `IllegalCommand`, "no other register changes", 30_encoding.md R69 and 60_exceptions.md R179. -/
def execReserved5 (s : State) : Host.Outcome State Fault Refusal := .next (takeFault .illegalCommand s)

/-- CMD 6. -/
def execReserved6 (s : State) : Host.Outcome State Fault Refusal := .next (takeFault .illegalCommand s)

/-- CMD 7. -/
def execReserved7 (s : State) : Host.Outcome State Fault Refusal := .next (takeFault .illegalCommand s)

end Sys2Proof.Machine
end

