-- ==== Sys2Proof/Machine/Dispatch.lean ====
section
/-! DEFINITION. One arm per row of the opcode table, each a direct call of its meaning. -/

namespace Sys2Proof.Machine

def exec (i : Instr) (s : State) : Host.Outcome State Fault Refusal :=
  match i with
  | .dec w => Sys2Proof.Machine.execDec w s
  | .evalP2 => Sys2Proof.Machine.execEvalP2 s
  | .evalGen => Sys2Proof.Machine.execEvalGen s
  | .evalPrec => Sys2Proof.Machine.execEvalPrec s
  | .enc n d tok => Sys2Proof.Machine.execEnc n d tok s
  | .cmdReserved5 => Sys2Proof.Machine.execReserved5 s
  | .cmdReserved6 => Sys2Proof.Machine.execReserved6 s
  | .cmdReserved7 => Sys2Proof.Machine.execReserved7 s
  | .zeroWord => Sys2Proof.Machine.execZeroWord s
  | .expr1 op0 dm1 _ => Sys2Proof.Machine.execExpr1 op0 dm1 s
  | .expr2 op0 op1 dm1 _ => Sys2Proof.Machine.execExpr2 op0 op1 dm1 s
  | .expr3 op0 op1 op2 dm1 _ => Sys2Proof.Machine.execExpr3 op0 op1 op2 dm1 s
  | .expr4 op0 op1 op2 op3 dm1 _ => Sys2Proof.Machine.execExpr4 op0 op1 op2 op3 dm1 s
  | .expr5 op0 op1 op2 op3 op4 dm1 _ => Sys2Proof.Machine.execExpr5 op0 op1 op2 op3 op4 dm1 s
  | .expr6 op0 op1 op2 op3 op4 op5 dm1 _ => Sys2Proof.Machine.execExpr6 op0 op1 op2 op3 op4 op5 dm1 s
  | .expr7 op0 op1 op2 op3 op4 op5 op6 dm1 _ => Sys2Proof.Machine.execExpr7 op0 op1 op2 op3 op4 op5 op6 dm1 s
  | .expr8 op0 op1 op2 op3 op4 op5 op6 op7 dm1 _ => Sys2Proof.Machine.execExpr8 op0 op1 op2 op3 op4 op5 op6 op7 dm1 s
  | .add site => Sys2Proof.Machine.execAdd site s
  | .sub site => Sys2Proof.Machine.execSub site s
  | .mul site => Sys2Proof.Machine.execMul site s
  | .div site => Sys2Proof.Machine.execDiv site s
  | .tokAdd slot => Sys2Proof.Machine.execTokAdd slot s
  | .tokSub slot => Sys2Proof.Machine.execTokSub slot s
  | .tokMul slot => Sys2Proof.Machine.execTokMul slot s
  | .tokDiv slot => Sys2Proof.Machine.execTokDiv slot s

end Sys2Proof.Machine
end

