-- ==== Sys2Proof/Machine/Step.lean ====
section
/-! DEFINITION. One step: the host's next action, a command run whole (10_state.md R10). -/

namespace Sys2Proof.Machine

/-- One step of the machine: a command is decoded and executed; a reset, a new source or a wait takes effect at
once. -/
def step (s : State) : Host.Outcome State Fault Refusal :=
  match fetch s with
  | .run p t => exec (decodePacket p) t
  | .done t => .next t

/-- `s` with the opcode-table word presented so that the next step runs it (log 14). -/
def State.withFetchWord (s : State) (nbits w : Nat) : State := presentCoded (tableCoded nbits w) s

end Sys2Proof.Machine
end

