-- ==== Sys2Proof/Machine/Reference.lean ====
section
/-! DEFINITION. What an evaluation means, without the machine's registers: the operand fields of a chunk stream
(41_unpacker.md R100), the number of chunks (20_memory.md R47) and the reduction on sequences (43_evaluators.md
R146). The statements compare the machine with these; no meaning calls them. -/

namespace Sys2Proof.Machine

/-- `CHUNKS(N, D) = ceil((N + 1) * D / 16)`, 20_memory.md R47. -/
def chunkCount (n d : Nat) : Nat := ((n + 1) * d + 15) / 16

/-- Bit `p` of the operand stream, most significant bit of the first chunk first, 20_memory.md R44; 0 past the end. -/
def streamBit (chunks : List Chunk) (p : Nat) : Nat :=
  match chunks[p / 16]? with
  | some v => v.toNat / 2 ^ (15 - p % 16) % 2
  | none => 0

/-- The number whose `len` bits, most significant first, start at stream position `p`. -/
def streamNumber (chunks : List Chunk) (p : Nat) : Nat → Nat
  | 0 => 0
  | len + 1 => 2 * streamNumber chunks p len + streamBit chunks (p + len)

/-- `Field(k)`, 41_unpacker.md R100. -/
def operandField (chunks : List Chunk) (d k : Nat) : Nat := streamNumber chunks (k * d) d

/-- The chunks at `count` positions of a source from `p` on, when all of them are chunks. -/
def chunksAt (src : Source) : Nat → Nat → Option (List Chunk)
  | _, 0 => some []
  | p, count + 1 =>
    match sourceAt src p with
    | .chunk v => (chunksAt src (p + 1) count).map fun vs => v :: vs
    | _ => none

/-- An expression after its first operand: each operator with the operand to its right. -/
abbrev ExprTail := List (Op × Int)

/-- The expression of an Instruction over a chunk stream, after its first operand. -/
def exprTail (ir : Ir) (chunks : List Chunk) : ExprTail :=
  (indices8.take (irN ir)).map fun i => (Op.ofCode ir.op[i], (operandField chunks (irD ir) (i.val + 1) : Int))

/-- The first operand of an Instruction over a chunk stream. -/
def exprHead (ir : Ir) (chunks : List Chunk) : Int := operandField chunks (irD ir) 0

/-- `fold(v, o)`, 43_evaluators.md R146. -/
def foldSeq : Int → ExprTail → Except FaultKind Int
  | v, [] => .ok v
  | v, (op, b) :: rest =>
    match alu op v b with
    | .ok r => foldSeq r rest
    | .error f => .error f

/-- Mul or Div, the high-precedence tier (30_encoding.md R65). -/
def isHigh : Op → Bool
  | .add => false
  | .sub => false
  | .mul => true
  | .div => true

/-- `pass1(v, o)`, 43_evaluators.md R146. -/
def pass1Seq : Int → ExprTail → Except FaultKind (Int × ExprTail)
  | v, [] => .ok (v, [])
  | v, (op, b) :: rest =>
    if isHigh op then
      match alu op v b with
      | .ok r => pass1Seq r rest
      | .error f => .error f
    else
      match pass1Seq b rest with
      | .ok (v', rest') => .ok (v, (op, v') :: rest')
      | .error f => .error f

/-- The value of an expression under an evaluator, 43_evaluators.md R146. -/
def exprValue (mode : EvalMode) (v : Int) (rest : ExprTail) : Except FaultKind Int :=
  match mode with
  | .p2 => foldSeq v rest
  | .gen => foldSeq v rest
  | .prec =>
    match pass1Seq v rest with
    | .ok (v', rest') => foldSeq v' rest'
    | .error f => .error f

/-- The value of an Instruction over a chunk stream under an evaluator. -/
def valueOf (mode : EvalMode) (ir : Ir) (chunks : List Chunk) : Except FaultKind Int :=
  exprValue mode (exprHead ir chunks) (exprTail ir chunks)

/-- The operator codes that the shift sequence of 40_codec.md R81 (step 3) extracts, in order: mask, shift right by
`2*raw`, shift the working value left by 2. -/
def shiftCodes (raw : Nat) : Nat → Nat → List Nat
  | 0, _ => []
  | count + 1, t => ((t &&& (3 <<< (2 * raw))) >>> (2 * raw)) :: shiftCodes raw count (t <<< 2)

/-- The shift sequence of 40_codec.md R81 on a word: the raw count, the raw dimension and the operator codes. -/
def shiftDecode (w : Nat) : Nat × Nat × List Nat :=
  let raw := w >>> 29
  (raw, ((w <<< (5 + 2 * raw)) % 2 ^ 32) >>> 28, shiftCodes raw (raw + 1) (w >>> (27 - 2 * raw)))

end Sys2Proof.Machine
end

