-- ==== Sys2Proof/Safety.lean ====
section
/-! DEFINITION. The terms the statements use: the invariant, what the host sees, which instructions make up a
family, and when a step may stop. -/

namespace Sys2Proof.Machine

/-- What holds of the machine between commands: `PHASE` is `IDLE` (10_state.md R22), `STATUS` is a code of
30_encoding.md R70, `RDCNT` is 0 to 9 (10_state.md R21), the unused operator slots of `IR` are 0 (R11), and
`PEND_VAL < 2^PEND_BITS` (R17). -/
abbrev State.Inv (s : State) : Prop :=
  s.phase = .idle ∧ s.status.toNat ≤ 8 ∧ s.rdcnt.toNat ≤ 9 ∧
    (∀ i : Fin 8, irN s.ir ≤ i.val → s.ir.op[i] = 0) ∧ s.pendVal.toNat < 2 ^ s.pendBits.toNat

/-- What the host reads between commands, 10_state.md R26. -/
structure HostView where
  ir : Ir
  word : Word32
  res : I64
  resValid : Bool
  status : BitVec 4
  rdcnt : BitVec 4
  deriving DecidableEq, Repr

/-- The host-readable part of a state. -/
def hostView (s : State) : HostView := ⟨s.ir, s.word, s.res, s.resValid, s.status, s.rdcnt⟩

/-- What the host and the environment can tell of an outcome: the readable registers and the operand source. -/
def observed (r : Host.Outcome State Fault Refusal) : Option (HostView × Source) :=
  match r with
  | .next t => some (hostView t, t.src)
  | .fault _ => none
  | .refused _ => none

/-- The evaluation command of a mode. -/
def evalInstr : EvalMode → Instr
  | .p2 => .evalP2
  | .gen => .evalGen
  | .prec => .evalPrec

/-- The operator instruction of an operator. -/
def operatorInstr (op : Op) (site : AluSite) : Instr :=
  match op with
  | .add => .add site
  | .sub => .sub site
  | .mul => .mul site
  | .div => .div site

/-- The eight commands of 30_encoding.md R68 and R69, which every host can issue. -/
def isCommand : Instr → Bool
  | .dec _ | .evalP2 | .evalGen | .evalPrec | .enc _ _ _ => true
  | .cmdReserved5 | .cmdReserved6 | .cmdReserved7 => true
  | .zeroWord | .expr1 _ _ _ | .expr2 _ _ _ _ | .expr3 _ _ _ _ _ | .expr4 _ _ _ _ _ _ => false
  | .expr5 _ _ _ _ _ _ _ | .expr6 _ _ _ _ _ _ _ _ | .expr7 _ _ _ _ _ _ _ _ _ => false
  | .expr8 _ _ _ _ _ _ _ _ _ _ => false
  | .add _ | .sub _ | .mul _ | .div _ => false
  | .tokAdd _ | .tokSub _ | .tokMul _ | .tokDiv _ => false

/-- The three evaluation commands. -/
def isEval : Instr → Bool
  | .evalP2 | .evalGen | .evalPrec => true
  | .dec _ | .enc _ _ _ => false
  | .cmdReserved5 | .cmdReserved6 | .cmdReserved7 => false
  | .zeroWord | .expr1 _ _ _ | .expr2 _ _ _ _ | .expr3 _ _ _ _ _ | .expr4 _ _ _ _ _ _ => false
  | .expr5 _ _ _ _ _ _ _ | .expr6 _ _ _ _ _ _ _ _ | .expr7 _ _ _ _ _ _ _ _ _ => false
  | .expr8 _ _ _ _ _ _ _ _ _ _ => false
  | .add _ | .sub _ | .mul _ | .div _ => false
  | .tokAdd _ | .tokSub _ | .tokMul _ | .tokDiv _ => false

/-- The operators of the reducer. -/
def isOperator : Instr → Bool
  | .add _ | .sub _ | .mul _ | .div _ => true
  | .dec _ | .enc _ _ _ | .evalP2 | .evalGen | .evalPrec => false
  | .cmdReserved5 | .cmdReserved6 | .cmdReserved7 => false
  | .zeroWord | .expr1 _ _ _ | .expr2 _ _ _ _ | .expr3 _ _ _ _ _ | .expr4 _ _ _ _ _ _ => false
  | .expr5 _ _ _ _ _ _ _ | .expr6 _ _ _ _ _ _ _ _ | .expr7 _ _ _ _ _ _ _ _ _ => false
  | .expr8 _ _ _ _ _ _ _ _ _ _ => false
  | .tokAdd _ | .tokSub _ | .tokMul _ | .tokDiv _ => false

/-- The part of the state that no codec instruction and no reserved command writes (40_codec.md R80, R86;
30_encoding.md R69): all but `IR`, `WORD`, `STATUS`, `PHASE` and ENC's staged codes. -/
def outsideCodec (s : State) : State :=
  { s with
    ir := State.reset.ir
    word := 0
    status := 0
    phase := .idle
    encC := State.reset.encC }

/-- The part of the state that no operator of the reducer writes (43_evaluators.md R144, R145; 60_exceptions.md
R181): all but the reducer's registers, `STATUS` and `PHASE`. -/
def outsideReducer (s : State) : State :=
  { s with
    val := State.reset.val
    wops := State.reset.wops
    wlen := 0
    cur := 0
    acc := 0
    status := 0
    phase := .idle }

/-- The first `good` responses from the read position on are chunks. -/
def goodReads (s : State) (good : Nat) : Prop := ∃ chunks, chunksAt s.src s.src.pos good = some chunks

/-- What every EVAL leaves alone whatever its outcome (43_evaluators.md R140, R148): `IR`, `WORD`, what is staged and
issued, and the content of the source. -/
def evalKeeps (s t : State) : Prop :=
  t.ir = s.ir ∧ t.word = s.word ∧ t.encC = s.encC ∧ t.inbox = s.inbox ∧
    t.src.listed = s.src.listed ∧ t.src.tail = s.src.tail

/-- A faulted evaluation as the host sees it (60_exceptions.md R181): the code in `STATUS`, no valid result, `RES`
unchanged, `good` chunks counted and `taken` responses consumed. -/
def evalFaulted (s t : State) (f : FaultKind) (good taken : Nat) : Prop :=
  t.status = f.code ∧ t.phase = .idle ∧ t.resValid = false ∧ t.res = s.res ∧ t.rdcnt.toNat = good ∧
    t.src.pos = s.src.pos + taken ∧ evalKeeps s t

/-- A successful evaluation with result `r` as the host sees it (43_evaluators.md R140): `reads` chunks read. -/
def evalReturned (s t : State) (r : Int) (reads : Nat) : Prop :=
  t.status = statusOk ∧ t.phase = .idle ∧ t.resValid = true ∧ t.res.toInt = r ∧ t.rdcnt.toNat = reads ∧
    t.src.pos = s.src.pos + reads ∧ evalKeeps s t

/-- A step is safe when it answers a next state. -/
def safeStep (s : State) : Prop := ∃ t, step s = .next t

end Sys2Proof.Machine
end

