-- ==== Sys2Proof/Certificates/Slice0/Obligations.lean ====
section
/-! DEFINITION. The statements for the provers. Each docstring names the rule or section of spec/ it formalises. -/

open Sys2Proof Sys2Proof.Machine

/-! ## Steps, reset and the invariant -/

/-- 10_state.md section 1 (R10, decision D1): a step is one whole command. The list `inbox` is the model's (log 1). -/
def Obligations.StepRunsIssuedCommand : Prop :=
  ∀ (s : State) (p : Packet) (rest : List HostAction),
    s.inbox = .command p :: rest → step s = exec (decodePacket p) { s with inbox := rest }

/-- 70_reset_and_hazards.md section 1 (R200, decision D18): what a reset leaves, from any state; the operand source
and what the host does next are not touched. The working registers are left out: their values are the model's. -/
def Obligations.ResetActionRestoresRegisters : Prop :=
  ∀ (s : State) (rest : List HostAction), s.inbox = .reset :: rest →
    ∃ t, step s = .next t ∧ t.status = 0 ∧ t.ir.valid = false ∧ t.ir.nm1 = 0 ∧ t.ir.dm1 = 0 ∧
      (∀ i : Fin 8, t.ir.op[i] = 0) ∧ t.word = 0 ∧ t.res = 0 ∧ t.resValid = false ∧ t.rdcnt = 0 ∧
      t.phase = .idle ∧ t.src = s.src ∧ t.inbox = rest

/-- The host's other actions: presenting a source replaces it and nothing else (70_reset_and_hazards.md section 2);
with nothing issued the block waits (section 1). Both are the model's choice of form (log 1). -/
def Obligations.SourceAndWaitLeaveBlockAlone : Prop :=
  ∀ (s : State) (src : Source) (rest : List HostAction),
    (s.inbox = .present src :: rest → step s = .next { s with src := src, inbox := rest }) ∧
      (s.inbox = [] → step s = .next s)

/-- The invariant at reset. -/
def Obligations.ResetStateMeetsInvariant : Prop := State.reset.Inv

/-- The invariant (10_state.md R11, R17, R20, R21, R22) is kept by every instruction, from every state. -/
def Obligations.EveryInstructionKeepsInvariant : Prop :=
  ∀ (i : Instr) (s t : State), s.Inv → exec i s = .next t → t.Inv

/-- The invariant is kept by every step, from every state. -/
def Obligations.EveryStepKeepsInvariant : Prop :=
  ∀ s t : State, s.Inv → step s = .next t → t.Inv

/-- Every instruction completes or stalls on a silent source, and is never refused: a step stops only inside an
evaluation over a source that never answers (43_evaluators.md section 4; 70_reset_and_hazards.md R209, premise
D30; log 8). -/
def Obligations.OnlySilentSourceStops : Prop :=
  ∀ (i : Instr) (s : State),
    (∃ t, exec i s = .next t) ∨ (exec i s = .fault .sourceSilent ∧ isEval i = true ∧ s.src.tail = .silent)

/-- What an opcode-table word placed for the next step does (log 14): an encoded word runs as its layout. -/
def Obligations.PresentedWordRunsAsItsLayout : Prop :=
  ∀ (s : State) (w : Nat), step (s.withFetchWord 32 w) = exec (decodeWord (BitVec.ofNat 32 w)) s

/-! ## Encodings -/

/-- A few words written from 30_encoding.md sections 1 to 6 and the vectors of 95_test_vectors.md section 2. -/
def Obligations.SampleCodesDecode : Prop :=
  decodeWord 0x30800000 = .expr2 .mul .add 4 0 ∧ decodeWord 0xFFFFFFFF =
      .expr8 .div .div .div .div .div .div .div .div 15 0x1FF ∧
    decodeWord 0x00000001 = .expr1 .add 0 1 ∧ decodeWord 0 = .zeroWord ∧
    decodePacket ⟨4, 7, 2, 5, #v[0x2A, 0x2B, 0, 0, 0, 0, 0, 0]⟩ = .enc 2 5 #v[0x2A, 0x2B, 0, 0, 0, 0, 0, 0] ∧
    decodePacket ⟨3, 7, 2, 5, noTokens⟩ = .evalPrec ∧ decodeOperator 3 .pass1 = .div .pass1

/-- 30_encoding.md (R61, R62, R65, R68, R69, R71): decoding the encoding of a well-formed instruction gives it
back, for every operand. -/
def Obligations.DecodeInvertsEncode : Prop :=
  ∀ i : Instr, i.wellFormed = true → decode (encode i) = .ok i

/-- 30_encoding.md section 1: no bit of an encoded word is dropped, the padding included. -/
def Obligations.EncodeInvertsDecodeOfWords : Prop :=
  ∀ w : Word32, encode (decodeWord w) = .word w ∧ (decodeWord w).wellFormed = true

/-- 30_encoding.md section 6 (R71): a token outside the four characters is rejected by name. -/
def Obligations.OtherTokensAreRejected : Prop :=
  ∀ (t : Token) (i : Fin 8), t.toNat ∉ [0x2A, 0x2B, 0x2D, 0x2F] → decode (.token t i) = .error (.unknownToken t)

/-! ## The codec -/

/-- 40_codec.md section 1 (R80, with D8 for the unused slots): DEC of a nonzero word completes, loads the fields of
30_encoding.md R61 and writes nothing but `IR` and `STATUS`. -/
def Obligations.DecLoadsWordFields : Prop :=
  ∀ (s : State) (w : Word32), w ≠ 0 →
    let n := w.toNat / 2 ^ 29 + 1
    ∃ t, exec (.dec w) s = .next t ∧ t = { s with ir := t.ir, status := 0 } ∧ t.ir.valid = true ∧
      t.ir.nm1.toNat + 1 = n ∧ t.ir.dm1.toNat = w.toNat / 2 ^ (25 - 2 * n) % 16 ∧
      ∀ i : Fin 8, t.ir.op[i].toNat = if i.val < n then w.toNat / 2 ^ (27 - 2 * i.val) % 4 else 0

/-- 40_codec.md section 1 (R81, an agreement the spec derives): DEC loads what the source's shift sequence
extracts. -/
def Obligations.DecAgreesWithShiftSequence : Prop :=
  ∀ (s : State) (w : Word32), w ≠ 0 →
    ∃ t, exec (.dec w) s = .next t ∧
      shiftDecode w.toNat =
        (t.ir.nm1.toNat, t.ir.dm1.toNat, (t.ir.op.toList.take (irN t.ir)).map BitVec.toNat)

/-- 30_encoding.md R62 and 40_codec.md R80, R82: the closed form of DEC and the table of the eight layouts are the
same machine, on every word. -/
def Obligations.DecAgreesWithLayoutTable : Prop :=
  ∀ (s : State) (w : Word32), exec (.dec w) s = exec (decodeWord w) s

/-- 30_encoding.md section 1 (R62) with 40_codec.md section 1 (R80): each layout completes, loads its own count,
dimension and operators and zeros after them, and ignores its padding. -/
def Obligations.WordLayoutsLoadInstruction : Prop :=
  ∀ (s : State) (a b c d e f g h : Op) (m : BitVec 4),
    (∀ pad, (Instr.expr1 a m pad).wellFormed = true →
      exec (.expr1 a m pad) s = .next { s with
        ir := ⟨true, 0, m, #v[a.code, 0, 0, 0, 0, 0, 0, 0]⟩, status := 0 }) ∧
    (∀ pad, exec (.expr2 a b m pad) s = .next { s with
        ir := ⟨true, 1, m, #v[a.code, b.code, 0, 0, 0, 0, 0, 0]⟩, status := 0 }) ∧
    (∀ pad, exec (.expr3 a b c m pad) s = .next { s with
        ir := ⟨true, 2, m, #v[a.code, b.code, c.code, 0, 0, 0, 0, 0]⟩, status := 0 }) ∧
    (∀ pad, exec (.expr4 a b c d m pad) s = .next { s with
        ir := ⟨true, 3, m, #v[a.code, b.code, c.code, d.code, 0, 0, 0, 0]⟩, status := 0 }) ∧
    (∀ pad, exec (.expr5 a b c d e m pad) s = .next { s with
        ir := ⟨true, 4, m, #v[a.code, b.code, c.code, d.code, e.code, 0, 0, 0]⟩, status := 0 }) ∧
    (∀ pad, exec (.expr6 a b c d e f m pad) s = .next { s with
        ir := ⟨true, 5, m, #v[a.code, b.code, c.code, d.code, e.code, f.code, 0, 0]⟩, status := 0 }) ∧
    (∀ pad, exec (.expr7 a b c d e f g m pad) s = .next { s with
        ir := ⟨true, 6, m, #v[a.code, b.code, c.code, d.code, e.code, f.code, g.code, 0]⟩, status := 0 }) ∧
    ∀ pad, exec (.expr8 a b c d e f g h m pad) s = .next { s with
        ir := ⟨true, 7, m, #v[a.code, b.code, c.code, d.code, e.code, f.code, g.code, h.code]⟩, status := 0 }

/-- 40_codec.md section 1 (R82, with D4 for the valid bit): the zero word raises `OutOfRange` and leaves `IR` as it
was, given to DEC or read as the row ZERO_WORD. -/
def Obligations.ZeroWordRaisesOutOfRange : Prop :=
  ∀ s : State,
    exec (.dec 0) s = .next { s with phase := .idle, status := 2 } ∧
      exec .zeroWord s = .next { s with phase := .idle, status := 2 }

/-- 30_encoding.md section 3 (R66, which the spec derives): two nonzero words that agree above the padding are the
same to DEC. -/
def Obligations.DecIgnoresPadding : Prop :=
  ∀ (s : State) (v w : Word32), v ≠ 0 → w ≠ 0 →
    v.toNat / 2 ^ (23 - 2 * (w.toNat / 2 ^ 29)) = w.toNat / 2 ^ (23 - 2 * (w.toNat / 2 ^ 29)) →
    exec (.dec v) s = exec (.dec w) s

/-- 40_codec.md section 2 (R84, with D9 for `IR`): ENC with legal counts and tokens completes, builds the word of
30_encoding.md R61 and loads `IR`; besides, only `STATUS` and the model's own `encC` (log 4) change. -/
def Obligations.EncBuildsWordAndInstruction : Prop :=
  ∀ (s : State) (n d : BitVec 8) (tok : Vector Token 8) (ops : Fin 8 → Op),
    1 ≤ n.toNat → n.toNat ≤ 8 → 1 ≤ d.toNat → d.toNat ≤ 16 →
    (∀ i : Fin 8, i.val < n.toNat → tokOp tok[i] = some (ops i)) →
    ∃ t, exec (.enc n d tok) s = .next t ∧
      t = { s with word := t.word, ir := t.ir, status := 0, encC := t.encC } ∧
      t.word.toNat = (n.toNat - 1) * 2 ^ 29
        + (∑ i : Fin 8, if i.val < n.toNat then (ops i).code.toNat * 2 ^ (27 - 2 * i.val) else 0)
        + (d.toNat - 1) * 2 ^ (25 - 2 * n.toNat) ∧
      t.ir.valid = true ∧ t.ir.nm1.toNat + 1 = n.toNat ∧ t.ir.dm1.toNat + 1 = d.toNat ∧
      ∀ i : Fin 8, t.ir.op[i] = if i.val < n.toNat then (ops i).code else 0

/-- 40_codec.md section 2 (R85, with D5 and D7): a count outside its range faults before any token is read, clears
`WORD` and leaves `IR` as it was. -/
def Obligations.EncRejectsCountsOutOfRange : Prop :=
  ∀ (s : State) (n d : BitVec 8) (tok : Vector Token 8),
    n.toNat < 1 ∨ 8 < n.toNat ∨ d.toNat < 1 ∨ 16 < d.toNat →
    exec (.enc n d tok) s = .next { s with word := 0, phase := .idle, status := 2 }

/-- 40_codec.md section 2 (R85, with D5): with legal counts, an unrecognised token among the first `n` raises
`MalformedInput`, clears `WORD` and leaves `IR` as it was. -/
def Obligations.EncRejectsUnknownToken : Prop :=
  ∀ (s : State) (n d : BitVec 8) (tok : Vector Token 8),
    1 ≤ n.toNat → n.toNat ≤ 8 → 1 ≤ d.toNat → d.toNat ≤ 16 →
    (∃ i : Fin 8, i.val < n.toNat ∧ tokOp tok[i] = none) →
    ∃ t, exec (.enc n d tok) s = .next t ∧
      t = { s with word := 0, phase := .idle, status := 1, encC := t.encC }

/-- 40_codec.md section 3 (R87): ENC, then DEC of the `WORD` it left, run from any state whatever `IR` holds there,
loads the Instruction ENC loaded; the one exception is N=1, D=1, `[Add]`, whose word is 0 and is rejected, `IR`
untouched. -/
def Obligations.EncThenDecRestoresInstruction : Prop :=
  ∀ (s : State) (n d : BitVec 8) (tok : Vector Token 8),
    1 ≤ n.toNat → n.toNat ≤ 8 → 1 ≤ d.toNat → d.toNat ≤ 16 →
    (∀ i : Fin 8, i.val < n.toNat → tokOp tok[i] ≠ none) →
    ∃ t, exec (.enc n d tok) s = .next t ∧
      ∀ v : State, ∃ u, exec (.dec t.word) v = .next u ∧
        (if n.toNat = 1 ∧ d.toNat = 1 ∧ tokOp tok[0] = some .add then t.word = 0 ∧ u.status = 2 ∧ u.ir = v.ir
          else t.word ≠ 0 ∧ u.status = 0 ∧ u.ir = t.ir)

/-- 40_codec.md section 3 (R87, second half, which the spec derives): DEC of a nonzero word, then ENC of the decoded
triple, gives the word with its padding cleared. -/
def Obligations.DecThenEncClearsPadding : Prop :=
  ∀ (s : State) (w : Word32) (n d : BitVec 8) (tok : Vector Token 8), w ≠ 0 →
    ∃ t, exec (.dec w) s = .next t ∧
      (n.toNat = irN t.ir → d.toNat = irD t.ir →
        (∀ i : Fin 8, i.val < n.toNat → tokOp tok[i] = some (Op.ofCode t.ir.op[i])) →
        ∃ u, exec (.enc n d tok) t = .next u ∧ u.ir = t.ir ∧ u.status = 0 ∧
          u.word.toNat = w.toNat / 2 ^ (25 - 2 * n.toNat) * 2 ^ (25 - 2 * n.toNat))

/-- 30_encoding.md section 6 (R71) in the line `c_i <- TokCode(tok[i])` of 40_codec.md R84: each token completes and
stages its operator code, the only thing it changes (log 4: the staged codes are the model's own field). -/
def Obligations.TokensStageOperatorCodes : Prop :=
  ∀ (s : State) (i : Fin 8),
    exec (.tokAdd i) s = .next { s with encC := s.encC.set i 0 } ∧
      exec (.tokSub i) s = .next { s with encC := s.encC.set i 1 } ∧
      exec (.tokMul i) s = .next { s with encC := s.encC.set i 2 } ∧
      exec (.tokDiv i) s = .next { s with encC := s.encC.set i 3 }

/-- 40_codec.md sections 1 and 2 (R80, R86) and 30_encoding.md section 4 (R69): no instruction but an evaluation or
an operator writes a register outside the codec, or touches the source. -/
def Obligations.CodecFrame : Prop :=
  ∀ (i : Instr) (s t : State), isEval i = false → isOperator i = false → exec i s = .next t →
    outsideCodec t = outsideCodec s

/-- 30_encoding.md section 4 (R69, decision D16): a reserved command raises `IllegalCommand` and changes nothing
else. -/
def Obligations.ReservedCommandsRaiseIllegalCommand : Prop :=
  ∀ s : State,
    exec .cmdReserved5 s = .next { s with phase := .idle, status := 8 } ∧
      exec .cmdReserved6 s = .next { s with phase := .idle, status := 8 } ∧
      exec .cmdReserved7 s = .next { s with phase := .idle, status := 8 }

/-- 10_state.md section 5 (R20, with D24): every command overwrites `STATUS`, and none reads it. -/
def Obligations.CommandsOverwriteStatus : Prop :=
  ∀ (i : Instr) (s : State) (x : BitVec 4), isCommand i = true → exec i { s with status := x } = exec i s

/-! ## The ALU and the reducer -/

/-- 42_alu.md R121, at iteration `j` of the fold: the exact sum, or `Overflow` when it is outside `I64`; nothing
else changes. -/
def Obligations.AddFoldsExactSum : Prop :=
  ∀ (s : State) (j : Fin 8), j.val < s.wlen.val →
    let r := s.acc.toInt + (s.val[j.val + 1]).toInt
    (-2 ^ 63 ≤ r ∧ r ≤ 2 ^ 63 - 1 →
      ∃ t, exec (.add (.fold j)) s = .next t ∧ t.acc.toInt = r ∧ t = { s with acc := t.acc }) ∧
    (r < -2 ^ 63 ∨ 2 ^ 63 - 1 < r → exec (.add (.fold j)) s = .next { s with phase := .idle, status := 6 })

/-- 42_alu.md R122, at iteration `j` of the fold. -/
def Obligations.SubFoldsExactDifference : Prop :=
  ∀ (s : State) (j : Fin 8), j.val < s.wlen.val →
    let r := s.acc.toInt - (s.val[j.val + 1]).toInt
    (-2 ^ 63 ≤ r ∧ r ≤ 2 ^ 63 - 1 →
      ∃ t, exec (.sub (.fold j)) s = .next t ∧ t.acc.toInt = r ∧ t = { s with acc := t.acc }) ∧
    (r < -2 ^ 63 ∨ 2 ^ 63 - 1 < r → exec (.sub (.fold j)) s = .next { s with phase := .idle, status := 6 })

/-- 42_alu.md R123, at iteration `j` of the fold. -/
def Obligations.MulFoldsExactProduct : Prop :=
  ∀ (s : State) (j : Fin 8), j.val < s.wlen.val →
    let r := s.acc.toInt * (s.val[j.val + 1]).toInt
    (-2 ^ 63 ≤ r ∧ r ≤ 2 ^ 63 - 1 →
      ∃ t, exec (.mul (.fold j)) s = .next t ∧ t.acc.toInt = r ∧ t = { s with acc := t.acc }) ∧
    (r < -2 ^ 63 ∨ 2 ^ 63 - 1 < r → exec (.mul (.fold j)) s = .next { s with phase := .idle, status := 6 })

/-- 42_alu.md R124, at iteration `j` of the fold: a zero divisor faults whatever the dividend; else the quotient has
magnitude `floor(|a| / |b|)` and the sign of `a*b` (00_scope.md R7), and only `-2^63 / -1` overflows. -/
def Obligations.DivFoldsTruncatedQuotient : Prop :=
  ∀ (s : State) (j : Fin 8), j.val < s.wlen.val →
    let a := s.acc.toInt
    let b := (s.val[j.val + 1]).toInt
    (b = 0 → exec (.div (.fold j)) s = .next { s with phase := .idle, status := 5 }) ∧
    (a = -2 ^ 63 ∧ b = -1 → exec (.div (.fold j)) s = .next { s with phase := .idle, status := 6 }) ∧
    (b ≠ 0 ∧ ¬(a = -2 ^ 63 ∧ b = -1) →
      ∃ t, exec (.div (.fold j)) s = .next t ∧ t.acc.toInt.natAbs = a.natAbs / b.natAbs ∧
        0 ≤ t.acc.toInt * (a * b) ∧ t = { s with acc := t.acc })

/-- 43_evaluators.md section 3 (R144), the iteration of pass 1 at an Add or Sub: the cursor advances by one and
nothing else changes. -/
def Obligations.Pass1SkipsAddAndSub : Prop :=
  ∀ s : State, s.cur.val < s.wlen.val →
    (∃ t, exec (.add .pass1) s = .next t ∧ t.cur.val = s.cur.val + 1 ∧ t = { s with cur := t.cur }) ∧
      ∃ t, exec (.sub .pass1) s = .next t ∧ t.cur.val = s.cur.val + 1 ∧ t = { s with cur := t.cur }

/-- 43_evaluators.md section 3 (R144), the iteration of pass 1 at a Mul or Div whose result is in range: the result
replaces the pair, both arrays close the gap with the old values (70_reset_and_hazards.md R202), `WLEN` drops by
one, the cursor and all else stay. -/
def Obligations.Pass1ReducesMulAndDiv : Prop :=
  ∀ (s : State) (i : Instr) (r : Int) (h : s.cur.val < s.wlen.val),
    let a := (s.val[s.cur]).toInt
    let b := (s.val[s.cur.val + 1]'(by omega)).toInt
    (i = .mul .pass1 ∧ r = a * b) ∨ (i = .div .pass1 ∧ b ≠ 0 ∧ r = a.tdiv b) →
    -2 ^ 63 ≤ r → r ≤ 2 ^ 63 - 1 →
    ∃ t, exec i s = .next t ∧ (t.val[s.cur]).toInt = r ∧
      (∀ i : Fin 9, i.val < s.cur.val ∨ s.wlen.val ≤ i.val → t.val[i] = s.val[i]) ∧
      (∀ (i : Nat) (hi : i + 1 < 9), s.cur.val < i → i < s.wlen.val → t.val[i] = s.val[i + 1]) ∧
      (∀ i : Fin 8, i.val < s.cur.val ∨ s.wlen.val ≤ i.val + 1 → t.wops[i] = s.wops[i]) ∧
      (∀ (i : Nat) (hi : i + 1 < 8), s.cur.val ≤ i → i + 1 < s.wlen.val → t.wops[i] = s.wops[i + 1]) ∧
      t.wlen.val + 1 = s.wlen.val ∧ t = { s with val := t.val, wops := t.wops, wlen := t.wlen }

/-- 43_evaluators.md section 3 (R144) with 42_alu.md R123, R124: a Mul or Div of pass 1 that the ALU rejects raises
that fault and reduces nothing. -/
def Obligations.Pass1FaultsOnRejectedPair : Prop :=
  ∀ (s : State) (h : s.cur.val < s.wlen.val),
    let a := (s.val[s.cur]).toInt
    let b := (s.val[s.cur.val + 1]'(by omega)).toInt
    (a * b < -2 ^ 63 ∨ 2 ^ 63 - 1 < a * b →
      exec (.mul .pass1) s = .next { s with phase := .idle, status := 6 }) ∧
    (b = 0 → exec (.div .pass1) s = .next { s with phase := .idle, status := 5 }) ∧
    (a = -2 ^ 63 ∧ b = -1 → exec (.div .pass1) s = .next { s with phase := .idle, status := 6 })

/-- The loop bounds of 43_evaluators.md R144 and R145: past them there is no iteration, so an operator changes
nothing. The model's reading (log 3). -/
def Obligations.OperatorsPastLoopBoundDoNothing : Prop :=
  ∀ (s : State) (op : Op) (j : Fin 8),
    (s.wlen.val ≤ j.val → exec (operatorInstr op (.fold j)) s = .next s) ∧
      (s.wlen.val ≤ s.cur.val → exec (operatorInstr op .pass1) s = .next s)

/-- 43_evaluators.md section 3 and 42_alu.md section 1 ("The ALU has no state and writes no flag"): an operator
writes only the reducer's registers, or takes `DivideByZero` or `Overflow` and writes nothing else. -/
def Obligations.OperatorFrame : Prop :=
  ∀ (op : Op) (site : AluSite) (s t : State), exec (operatorInstr op site) s = .next t →
    outsideReducer t = outsideReducer s ∧
      ((t.status = s.status ∧ t.phase = s.phase) ∨
        t = { s with phase := .idle, status := 5 } ∨ t = { s with phase := .idle, status := 6 })

/-! ## The unpacker -/

/-- 41_unpacker.md R105, the pending-bits law: once per operand extracted, in all three cases. -/
def Obligations.PendingBitsLaw : Prop :=
  ∀ (d : Nat) (s t : State) (v : Chunk), 1 ≤ d → d ≤ 16 → extractCarry d s = .ok (v, t) →
    t.pendBits.toNat = (s.pendBits.toNat + 16 - d) % 16

/-- 41_unpacker.md section 4 (R104), EXTRACT_CARRY case by case, on numbers: C takes the top of the pending bits without
a read, A the top of a fresh chunk, B the pending bits and the top of a fresh chunk; a failed read leaves the
pending bits as they were. That a malformed response is consumed, the end of input is not, and only an `Ok` response
is counted is 20_memory.md section 1 (R41) with the spec's own decision D13 (log 12). -/
def Obligations.CarryExtractionCases : Prop :=
  ∀ (d : Nat) (s : State), 1 ≤ d → d ≤ 16 → s.pendVal.toNat < 2 ^ s.pendBits.toNat →
    let pb := s.pendBits.toNat
    (d ≤ pb → ∃ v t, extractCarry d s = .ok (v, t) ∧ v.toNat = s.pendVal.toNat / 2 ^ (pb - d) ∧
      t.pendBits.toNat = pb - d ∧ t.pendVal.toNat = s.pendVal.toNat % 2 ^ (pb - d) ∧
      t = { s with pendBits := t.pendBits, pendVal := t.pendVal }) ∧
    (∀ c, pb < d → sourceAt s.src s.src.pos = .chunk c →
      ∃ v t, extractCarry d s = .ok (v, t) ∧
        v.toNat = s.pendVal.toNat * 2 ^ (d - pb) + c.toNat / 2 ^ (16 - (d - pb)) ∧
        t.pendBits.toNat = 16 - (d - pb) ∧ t.pendVal.toNat = c.toNat % 2 ^ (16 - (d - pb)) ∧
        t.src = { s.src with pos := s.src.pos + 1 } ∧
        t = { s with
          pendBits := t.pendBits, pendVal := t.pendVal, src := t.src, rdcnt := s.rdcnt + 1 }) ∧
    (pb < d → sourceAt s.src s.src.pos = .endOfInput →
      extractCarry d s = .error (.raised { s with phase := .idle, status := 3 })) ∧
    (pb < d → sourceAt s.src s.src.pos = .malformed →
      extractCarry d s = .error (.raised { s with
        phase := .idle, status := 1, src := { s.src with pos := s.src.pos + 1 } }))

/-- 41_unpacker.md section 3 (R102), EXTRACT_ALIGNED: a read at every `16/D`-th operand, the top `D` bits of `WORK`, and
`WORK` shifted left by `D`. What a read consumes and counts is 20_memory.md section 1 (R41) with the spec's own
decision D13 (log 12). -/
def Obligations.AlignedExtractionTakesTopBits : Prop :=
  ∀ (d : Nat) (s : State), d ∈ [1, 2, 4, 8, 16] →
    (s.k.val % (16 / d) ≠ 0 → ∃ v t, extractAligned d s = .ok (v, t) ∧
      v.toNat = s.work.toNat / 2 ^ (16 - d) ∧ t.work.toNat = s.work.toNat * 2 ^ d % 2 ^ 16 ∧
      t = { s with work := t.work }) ∧
    (∀ c, s.k.val % (16 / d) = 0 → sourceAt s.src s.src.pos = .chunk c →
      ∃ v t, extractAligned d s = .ok (v, t) ∧ v.toNat = c.toNat / 2 ^ (16 - d) ∧
        t.work.toNat = c.toNat * 2 ^ d % 2 ^ 16 ∧ t.src = { s.src with pos := s.src.pos + 1 } ∧
        t = { s with work := t.work, src := t.src, rdcnt := s.rdcnt + 1 }) ∧
    (s.k.val % (16 / d) = 0 → sourceAt s.src s.src.pos = .endOfInput →
      extractAligned d s = .error (.raised { s with phase := .idle, status := 3 })) ∧
    (s.k.val % (16 / d) = 0 → sourceAt s.src s.src.pos = .malformed →
      extractAligned d s = .error (.raised { s with
        phase := .idle, status := 1, src := { s.src with pos := s.src.pos + 1 } }))

/-- 41_unpacker.md R100 with R101, R103, R106 and R107: in both modes the unpack phase writes `Field(0) .. Field(N)`
to `VAL[0..N]`, leaves the slots above alone, and reads `CHUNKS(N, D)` chunks. -/
def Obligations.UnpackWritesOperandFields : Prop :=
  ∀ (mode : ExtractMode) (n d : Nat) (s : State) (chunks : List Chunk),
    n ≤ 8 → 1 ≤ d → d ≤ 16 → (mode = .aligned → 16 % d = 0) → s.pendBits = 0 → s.pendVal = 0 → s.rdcnt = 0 →
    chunksAt s.src s.src.pos (chunkCount n d) = some chunks →
    ∃ t, unpack mode n d s = .ok t ∧
      (∀ i : Fin 9, i.val ≤ n → (t.val[i]).toInt = operandField chunks d i.val) ∧
      (∀ i : Fin 9, n < i.val → t.val[i] = s.val[i]) ∧
      t.rdcnt.toNat = chunkCount n d ∧ t.src = { s.src with pos := s.src.pos + chunkCount n d } ∧
      (mode = .carry → t.pendBits.toNat = (16 - (n + 1) * d % 16) % 16)

/-- 41_unpacker.md R100, "Equivalently": an operand inside one chunk is a slice of it, a straddling operand joins
the low bits of one chunk and the top bits of the next. -/
def Obligations.OperandFieldStraddleFormula : Prop :=
  ∀ (chunks : List Chunk) (d k : Nat), 1 ≤ d → d ≤ 16 → (k + 1) * d ≤ 16 * chunks.length →
    let j := k * d / 16
    let o := k * d % 16
    let c := fun m => (chunks.getD m 0).toNat
    operandField chunks d k =
      if o + d ≤ 16 then c j / 2 ^ (16 - o - d) % 2 ^ d
      else c j % 2 ^ (16 - o) * 2 ^ (d - (16 - o)) + c (j + 1) / 2 ^ (16 - (d - (16 - o)))

/-! ## The evaluators -/

/-- 43_evaluators.md section 2 (R141, R145): EVAL_P2 of an Instruction whose dimension divides 16, over enough
chunks, completes with the strict left-to-right fold of its operands. -/
def Obligations.EvalP2ReturnsLeftToRightFold : Prop :=
  ∀ (s : State) (chunks : List Chunk) (r : Int), s.ir.valid = true → 16 % irD s.ir = 0 →
    chunksAt s.src s.src.pos (chunkCount (irN s.ir) (irD s.ir)) = some chunks →
    foldSeq (exprHead s.ir chunks) (exprTail s.ir chunks) = .ok r →
    ∃ t, exec .evalP2 s = .next t ∧ evalReturned s t r (chunkCount (irN s.ir) (irD s.ir))

/-- 43_evaluators.md section 2 (R142, R145): EVAL_GEN completes with the left-to-right fold for every dimension. -/
def Obligations.EvalGenReturnsLeftToRightFold : Prop :=
  ∀ (s : State) (chunks : List Chunk) (r : Int), s.ir.valid = true →
    chunksAt s.src s.src.pos (chunkCount (irN s.ir) (irD s.ir)) = some chunks →
    foldSeq (exprHead s.ir chunks) (exprTail s.ir chunks) = .ok r →
    ∃ t, exec .evalGen s = .next t ∧ evalReturned s t r (chunkCount (irN s.ir) (irD s.ir))

/-- 43_evaluators.md sections 2 and 3 (R143, R144, R146): EVAL_PREC completes with the value of the expression under
the usual precedence: the in-place compaction of pass 1 refines the reduction on sequences. -/
def Obligations.EvalPrecReturnsPrecedenceValue : Prop :=
  ∀ (s : State) (chunks : List Chunk) (v r : Int) (rest : ExprTail), s.ir.valid = true →
    chunksAt s.src s.src.pos (chunkCount (irN s.ir) (irD s.ir)) = some chunks →
    pass1Seq (exprHead s.ir chunks) (exprTail s.ir chunks) = .ok (v, rest) → foldSeq v rest = .ok r →
    ∃ t, exec .evalPrec s = .next t ∧ evalReturned s t r (chunkCount (irN s.ir) (irD s.ir))

/-- 60_exceptions.md sections 2 and 4 (R171, R180, R181, with D10 and D11): the first failing ALU call is the
evaluation's fault, after all its chunks were read. -/
def Obligations.EvalArithmeticFaultAfterAllReads : Prop :=
  ∀ (mode : EvalMode) (s : State) (chunks : List Chunk) (f : FaultKind), s.ir.valid = true →
    (mode = .p2 → 16 % irD s.ir = 0) →
    chunksAt s.src s.src.pos (chunkCount (irN s.ir) (irD s.ir)) = some chunks →
    valueOf mode s.ir chunks = .error f →
    ∃ t, exec (evalInstr mode) s = .next t ∧ (f = .divideByZero ∨ f = .overflow) ∧
      evalFaulted s t f (chunkCount (irN s.ir) (irD s.ir)) (chunkCount (irN s.ir) (irD s.ir))

/-- 43_evaluators.md section 1 (R140 with D15): an evaluation with no Instruction loaded raises `NoInstruction` and
reads nothing. -/
def Obligations.EvalWithoutInstructionFaults : Prop :=
  ∀ (mode : EvalMode) (s : State), s.ir.valid = false →
    exec (evalInstr mode) s = .next { s with resValid := false, rdcnt := 0, phase := .idle, status := 7 }

/-- 60_exceptions.md R175: EVAL_P2 with a dimension not dividing 16 raises `UnsupportedDimension` before any
read. -/
def Obligations.EvalP2RejectsUnsupportedDimension : Prop :=
  ∀ s : State, s.ir.valid = true → irD s.ir ∈ [3, 5, 6, 7, 9, 10, 11, 12, 13, 14, 15] →
    exec .evalP2 s = .next { s with resValid := false, rdcnt := 0, phase := .idle, status := 4 }

/-- 60_exceptions.md R174: the first read that finds the source at its end raises `StreamExhausted`; the chunks that
were available are consumed and `RES` is not written. -/
def Obligations.EvalShortSourceIsExhausted : Prop :=
  ∀ (mode : EvalMode) (s : State) (good : Nat), s.ir.valid = true → (mode = .p2 → 16 % irD s.ir = 0) →
    good < chunkCount (irN s.ir) (irD s.ir) → goodReads s good →
    sourceAt s.src (s.src.pos + good) = .endOfInput →
    ∃ t, exec (evalInstr mode) s = .next t ∧ evalFaulted s t .streamExhausted good good

/-- 60_exceptions.md section 2 (R172) with 20_memory.md section 1 (R41, D13): a malformed response raises
`MalformedInput`, is consumed and is not counted. -/
def Obligations.EvalMalformedResponseFaults : Prop :=
  ∀ (mode : EvalMode) (s : State) (good : Nat), s.ir.valid = true → (mode = .p2 → 16 % irD s.ir = 0) →
    good < chunkCount (irN s.ir) (irD s.ir) → goodReads s good →
    sourceAt s.src (s.src.pos + good) = .malformed →
    ∃ t, exec (evalInstr mode) s = .next t ∧ evalFaulted s t .malformedInput good (good + 1)

/-- 70_reset_and_hazards.md section 3 (R209): a source that never answers a read the evaluation needs stalls it for
ever (log 8). -/
def Obligations.EvalStallsOnSilentSource : Prop :=
  ∀ (mode : EvalMode) (s : State) (good : Nat), s.ir.valid = true → (mode = .p2 → 16 % irD s.ir = 0) →
    good < chunkCount (irN s.ir) (irD s.ir) → goodReads s good →
    sourceAt s.src (s.src.pos + good) = .never →
    exec (evalInstr mode) s = .fault .sourceSilent

/-- 43_evaluators.md R148: after any EVAL, successful or not, `IR` is what it was; nor does an EVAL write `WORD`, what
is staged or issued, or the content of the source. -/
def Obligations.EvalNeverTouchesInstruction : Prop :=
  ∀ (i : Instr) (s t : State), isEval i = true → exec i s = .next t → evalKeeps s t

/-- 70_reset_and_hazards.md R210: after a faulted EVAL `RES` still holds the last good result, and `RES_VALID` tells
a fault from a success exactly as `STATUS` does. -/
def Obligations.FaultedEvalLeavesStaleResult : Prop :=
  ∀ (i : Instr) (s t : State), isEval i = true → exec i s = .next t →
    (t.resValid = false → t.res = s.res) ∧ (t.resValid = true ↔ t.status = statusOk)

/-- 20_memory.md R47: a successful evaluation has read exactly `ceil((N + 1) * D / 16)` chunks, which `RDCNT` and
the read position both show. -/
def Obligations.SuccessfulEvalReadsChunkCount : Prop :=
  ∀ (i : Instr) (s t : State), isEval i = true → exec i s = .next t → t.status = statusOk →
    16 * (t.rdcnt.toNat - 1) < (irN s.ir + 1) * irD s.ir ∧ (irN s.ir + 1) * irD s.ir ≤ 16 * t.rdcnt.toNat ∧
      t.src.pos = s.src.pos + t.rdcnt.toNat

/-- 43_evaluators.md section 5 (R149 (a), which the spec derives): for a dimension dividing 16, EVAL_P2 and EVAL_GEN
end alike in every readable register and in the source, faults included. -/
def Obligations.P2AgreesWithGen : Prop :=
  ∀ s : State, 16 % irD s.ir = 0 → observed (exec .evalP2 s) = observed (exec .evalGen s)

/-- 43_evaluators.md section 5 (R149 (b), which the spec derives): without Mul and Div, EVAL_PREC is EVAL_GEN. -/
def Obligations.PrecAgreesWithGenWithoutMulDiv : Prop :=
  ∀ s : State, (∀ i : Fin 8, i.val < irN s.ir → isHigh (Op.ofCode s.ir.op[i]) = false) →
    observed (exec .evalPrec s) = observed (exec .evalGen s)

/-- 43_evaluators.md section 5 (R149 (c), which the spec derives): when every Mul and Div stands before every Add and
Sub, EVAL_PREC and EVAL_GEN agree, faults included. -/
def Obligations.PrecAgreesWithGenWhenMulDivLead : Prop :=
  ∀ s : State,
    (∀ i j : Fin 8, i.val < j.val → j.val < irN s.ir → isHigh (Op.ofCode s.ir.op[j]) = true →
      isHigh (Op.ofCode s.ir.op[i]) = true) →
    observed (exec .evalPrec s) = observed (exec .evalGen s)

/-- 43_evaluators.md section 5 (R149 (d)) and 20_memory.md section 3 (R49): the readable registers after an
evaluation depend on the chunks only through the first `(N+1)*D` bits of the stream. -/
def Obligations.EvalIgnoresUnusedBits : Prop :=
  ∀ (mode : EvalMode) (s : State) (src : Source) (chunks chunks' : List Chunk),
    chunksAt s.src s.src.pos (chunkCount (irN s.ir) (irD s.ir)) = some chunks →
    chunksAt src src.pos (chunkCount (irN s.ir) (irD s.ir)) = some chunks' →
    streamNumber chunks 0 ((irN s.ir + 1) * irD s.ir) = streamNumber chunks' 0 ((irN s.ir + 1) * irD s.ir) →
    (observed (exec (evalInstr mode) s)).map Prod.fst =
      (observed (exec (evalInstr mode) { s with src := src })).map Prod.fst

/-- 43_evaluators.md R150: two EVAL commands with equal `IR` and equal upcoming source content give equal results,
whatever ran before and whatever the other registers hold. -/
def Obligations.EvalForgetsThePast : Prop :=
  ∀ (i : Instr) (s t u v : State), isEval i = true → s.ir = t.ir →
    (∀ p : Nat, sourceAt s.src (s.src.pos + p) = sourceAt t.src (t.src.pos + p)) →
    exec i s = .next u → exec i t = .next v →
    u.status = v.status ∧ u.resValid = v.resValid ∧ u.rdcnt = v.rdcnt ∧ (u.resValid = true → u.res = v.res) ∧
      u.src.pos - s.src.pos = v.src.pos - t.src.pos

/-- 42_alu.md section 3 (R128, which the spec derives): with Add and Sub only, each of the three evaluators over
enough chunks (EVAL_P2 for a dimension dividing 16) completes, with a result of magnitude at most `9 * 65535`. -/
def Obligations.AddSubEvaluationsNeverOverflow : Prop :=
  ∀ (mode : EvalMode) (s : State), s.ir.valid = true → (mode = .p2 → 16 % irD s.ir = 0) →
    (∀ i : Fin 8, i.val < irN s.ir → isHigh (Op.ofCode s.ir.op[i]) = false) →
    goodReads s (chunkCount (irN s.ir) (irD s.ir)) →
    ∃ t, exec (evalInstr mode) s = .next t ∧ t.status = statusOk ∧ t.resValid = true ∧
      t.res.toInt.natAbs ≤ 9 * 65535

/-- 70_reset_and_hazards.md section 3 (R204) and 40_codec.md section 1 (R82): a failed DEC leaves the earlier
Instruction in force, so an evaluation after it gives what it would have given without it. -/
def Obligations.FailedDecKeepsInstructionInForce : Prop :=
  ∀ (mode : EvalMode) (s t : State), exec (.dec 0) s = .next t →
    t.ir = s.ir ∧ t.status ≠ statusOk ∧
      observed (exec (evalInstr mode) t) = observed (exec (evalInstr mode) s)
end

