-- ==== Sys2Proof/Laws/State.lean ====
section
/-! SUPPORT. One lemma per field per named update of State, so that no later proof unfolds a record update. -/

namespace Sys2Proof.Machine

section takeFaultFields
variable (f : FaultKind) (s : State)

@[simp] theorem takeFault_ir : (takeFault f s).ir = s.ir := rfl
@[simp] theorem takeFault_word : (takeFault f s).word = s.word := rfl
@[simp] theorem takeFault_res : (takeFault f s).res = s.res := rfl
@[simp] theorem takeFault_resValid : (takeFault f s).resValid = s.resValid := rfl
@[simp] theorem takeFault_status : (takeFault f s).status = f.code := rfl
@[simp] theorem takeFault_rdcnt : (takeFault f s).rdcnt = s.rdcnt := rfl
@[simp] theorem takeFault_val : (takeFault f s).val = s.val := rfl
@[simp] theorem takeFault_wops : (takeFault f s).wops = s.wops := rfl
@[simp] theorem takeFault_wlen : (takeFault f s).wlen = s.wlen := rfl
@[simp] theorem takeFault_cur : (takeFault f s).cur = s.cur := rfl
@[simp] theorem takeFault_k : (takeFault f s).k = s.k := rfl
@[simp] theorem takeFault_acc : (takeFault f s).acc = s.acc := rfl
@[simp] theorem takeFault_pendBits : (takeFault f s).pendBits = s.pendBits := rfl
@[simp] theorem takeFault_pendVal : (takeFault f s).pendVal = s.pendVal := rfl
@[simp] theorem takeFault_work : (takeFault f s).work = s.work := rfl
@[simp] theorem takeFault_phase : (takeFault f s).phase = .idle := rfl
@[simp] theorem takeFault_encC : (takeFault f s).encC = s.encC := rfl
@[simp] theorem takeFault_src : (takeFault f s).src = s.src := rfl
@[simp] theorem takeFault_inbox : (takeFault f s).inbox = s.inbox := rfl

end takeFaultFields

section advanceFields
variable (s : State)

@[simp] theorem advance_ir : (advance s).ir = s.ir := rfl
@[simp] theorem advance_word : (advance s).word = s.word := rfl
@[simp] theorem advance_res : (advance s).res = s.res := rfl
@[simp] theorem advance_resValid : (advance s).resValid = s.resValid := rfl
@[simp] theorem advance_status : (advance s).status = s.status := rfl
@[simp] theorem advance_rdcnt : (advance s).rdcnt = s.rdcnt := rfl
@[simp] theorem advance_val : (advance s).val = s.val := rfl
@[simp] theorem advance_wops : (advance s).wops = s.wops := rfl
@[simp] theorem advance_wlen : (advance s).wlen = s.wlen := rfl
@[simp] theorem advance_cur : (advance s).cur = s.cur := rfl
@[simp] theorem advance_k : (advance s).k = s.k := rfl
@[simp] theorem advance_acc : (advance s).acc = s.acc := rfl
@[simp] theorem advance_pendBits : (advance s).pendBits = s.pendBits := rfl
@[simp] theorem advance_pendVal : (advance s).pendVal = s.pendVal := rfl
@[simp] theorem advance_work : (advance s).work = s.work := rfl
@[simp] theorem advance_phase : (advance s).phase = s.phase := rfl
@[simp] theorem advance_encC : (advance s).encC = s.encC := rfl
@[simp] theorem advance_src : (advance s).src = { s.src with pos := s.src.pos + 1 } := rfl
@[simp] theorem advance_inbox : (advance s).inbox = s.inbox := rfl

end advanceFields

section countReadFields
variable (s : State)

@[simp] theorem countRead_ir : (countRead s).ir = s.ir := rfl
@[simp] theorem countRead_word : (countRead s).word = s.word := rfl
@[simp] theorem countRead_res : (countRead s).res = s.res := rfl
@[simp] theorem countRead_resValid : (countRead s).resValid = s.resValid := rfl
@[simp] theorem countRead_status : (countRead s).status = s.status := rfl
@[simp] theorem countRead_rdcnt : (countRead s).rdcnt = s.rdcnt + 1 := rfl
@[simp] theorem countRead_val : (countRead s).val = s.val := rfl
@[simp] theorem countRead_wops : (countRead s).wops = s.wops := rfl
@[simp] theorem countRead_wlen : (countRead s).wlen = s.wlen := rfl
@[simp] theorem countRead_cur : (countRead s).cur = s.cur := rfl
@[simp] theorem countRead_k : (countRead s).k = s.k := rfl
@[simp] theorem countRead_acc : (countRead s).acc = s.acc := rfl
@[simp] theorem countRead_pendBits : (countRead s).pendBits = s.pendBits := rfl
@[simp] theorem countRead_pendVal : (countRead s).pendVal = s.pendVal := rfl
@[simp] theorem countRead_work : (countRead s).work = s.work := rfl
@[simp] theorem countRead_phase : (countRead s).phase = s.phase := rfl
@[simp] theorem countRead_encC : (countRead s).encC = s.encC := rfl
@[simp] theorem countRead_src : (countRead s).src = s.src := rfl
@[simp] theorem countRead_inbox : (countRead s).inbox = s.inbox := rfl

end countReadFields

section loadIrFields
variable (ir : Ir) (s : State)

@[simp] theorem loadIr_ir : (loadIr ir s).ir = ir := rfl
@[simp] theorem loadIr_word : (loadIr ir s).word = s.word := rfl
@[simp] theorem loadIr_res : (loadIr ir s).res = s.res := rfl
@[simp] theorem loadIr_resValid : (loadIr ir s).resValid = s.resValid := rfl
@[simp] theorem loadIr_status : (loadIr ir s).status = statusOk := rfl
@[simp] theorem loadIr_rdcnt : (loadIr ir s).rdcnt = s.rdcnt := rfl
@[simp] theorem loadIr_val : (loadIr ir s).val = s.val := rfl
@[simp] theorem loadIr_wops : (loadIr ir s).wops = s.wops := rfl
@[simp] theorem loadIr_wlen : (loadIr ir s).wlen = s.wlen := rfl
@[simp] theorem loadIr_cur : (loadIr ir s).cur = s.cur := rfl
@[simp] theorem loadIr_k : (loadIr ir s).k = s.k := rfl
@[simp] theorem loadIr_acc : (loadIr ir s).acc = s.acc := rfl
@[simp] theorem loadIr_pendBits : (loadIr ir s).pendBits = s.pendBits := rfl
@[simp] theorem loadIr_pendVal : (loadIr ir s).pendVal = s.pendVal := rfl
@[simp] theorem loadIr_work : (loadIr ir s).work = s.work := rfl
@[simp] theorem loadIr_phase : (loadIr ir s).phase = s.phase := rfl
@[simp] theorem loadIr_encC : (loadIr ir s).encC = s.encC := rfl
@[simp] theorem loadIr_src : (loadIr ir s).src = s.src := rfl
@[simp] theorem loadIr_inbox : (loadIr ir s).inbox = s.inbox := rfl

end loadIrFields

section presentSourceFields
variable (src : Source) (s : State)

@[simp] theorem presentSource_ir : (presentSource src s).ir = s.ir := rfl
@[simp] theorem presentSource_word : (presentSource src s).word = s.word := rfl
@[simp] theorem presentSource_res : (presentSource src s).res = s.res := rfl
@[simp] theorem presentSource_resValid : (presentSource src s).resValid = s.resValid := rfl
@[simp] theorem presentSource_status : (presentSource src s).status = s.status := rfl
@[simp] theorem presentSource_rdcnt : (presentSource src s).rdcnt = s.rdcnt := rfl
@[simp] theorem presentSource_val : (presentSource src s).val = s.val := rfl
@[simp] theorem presentSource_wops : (presentSource src s).wops = s.wops := rfl
@[simp] theorem presentSource_wlen : (presentSource src s).wlen = s.wlen := rfl
@[simp] theorem presentSource_cur : (presentSource src s).cur = s.cur := rfl
@[simp] theorem presentSource_k : (presentSource src s).k = s.k := rfl
@[simp] theorem presentSource_acc : (presentSource src s).acc = s.acc := rfl
@[simp] theorem presentSource_pendBits : (presentSource src s).pendBits = s.pendBits := rfl
@[simp] theorem presentSource_pendVal : (presentSource src s).pendVal = s.pendVal := rfl
@[simp] theorem presentSource_work : (presentSource src s).work = s.work := rfl
@[simp] theorem presentSource_phase : (presentSource src s).phase = s.phase := rfl
@[simp] theorem presentSource_encC : (presentSource src s).encC = s.encC := rfl
@[simp] theorem presentSource_src : (presentSource src s).src = src := rfl
@[simp] theorem presentSource_inbox : (presentSource src s).inbox = s.inbox := rfl

end presentSourceFields

section issueFirstFields
variable (p : Packet) (s : State)

@[simp] theorem issueFirst_ir : (issueFirst p s).ir = s.ir := rfl
@[simp] theorem issueFirst_word : (issueFirst p s).word = s.word := rfl
@[simp] theorem issueFirst_res : (issueFirst p s).res = s.res := rfl
@[simp] theorem issueFirst_resValid : (issueFirst p s).resValid = s.resValid := rfl
@[simp] theorem issueFirst_status : (issueFirst p s).status = s.status := rfl
@[simp] theorem issueFirst_rdcnt : (issueFirst p s).rdcnt = s.rdcnt := rfl
@[simp] theorem issueFirst_val : (issueFirst p s).val = s.val := rfl
@[simp] theorem issueFirst_wops : (issueFirst p s).wops = s.wops := rfl
@[simp] theorem issueFirst_wlen : (issueFirst p s).wlen = s.wlen := rfl
@[simp] theorem issueFirst_cur : (issueFirst p s).cur = s.cur := rfl
@[simp] theorem issueFirst_k : (issueFirst p s).k = s.k := rfl
@[simp] theorem issueFirst_acc : (issueFirst p s).acc = s.acc := rfl
@[simp] theorem issueFirst_pendBits : (issueFirst p s).pendBits = s.pendBits := rfl
@[simp] theorem issueFirst_pendVal : (issueFirst p s).pendVal = s.pendVal := rfl
@[simp] theorem issueFirst_work : (issueFirst p s).work = s.work := rfl
@[simp] theorem issueFirst_phase : (issueFirst p s).phase = s.phase := rfl
@[simp] theorem issueFirst_encC : (issueFirst p s).encC = s.encC := rfl
@[simp] theorem issueFirst_src : (issueFirst p s).src = s.src := rfl
@[simp] theorem issueFirst_inbox : (issueFirst p s).inbox = .command p :: s.inbox := rfl

end issueFirstFields

section keepPendingFields
variable (pb : Nat) (v : Chunk) (s : State)

@[simp] theorem keepPending_ir : (keepPending pb v s).ir = s.ir := rfl
@[simp] theorem keepPending_word : (keepPending pb v s).word = s.word := rfl
@[simp] theorem keepPending_res : (keepPending pb v s).res = s.res := rfl
@[simp] theorem keepPending_resValid : (keepPending pb v s).resValid = s.resValid := rfl
@[simp] theorem keepPending_status : (keepPending pb v s).status = s.status := rfl
@[simp] theorem keepPending_rdcnt : (keepPending pb v s).rdcnt = s.rdcnt := rfl
@[simp] theorem keepPending_val : (keepPending pb v s).val = s.val := rfl
@[simp] theorem keepPending_wops : (keepPending pb v s).wops = s.wops := rfl
@[simp] theorem keepPending_wlen : (keepPending pb v s).wlen = s.wlen := rfl
@[simp] theorem keepPending_cur : (keepPending pb v s).cur = s.cur := rfl
@[simp] theorem keepPending_k : (keepPending pb v s).k = s.k := rfl
@[simp] theorem keepPending_acc : (keepPending pb v s).acc = s.acc := rfl
@[simp] theorem keepPending_pendBits : (keepPending pb v s).pendBits = BitVec.ofNat 4 pb := rfl
@[simp] theorem keepPending_pendVal : (keepPending pb v s).pendVal = lowBits v pb := rfl
@[simp] theorem keepPending_work : (keepPending pb v s).work = s.work := rfl
@[simp] theorem keepPending_phase : (keepPending pb v s).phase = s.phase := rfl
@[simp] theorem keepPending_encC : (keepPending pb v s).encC = s.encC := rfl
@[simp] theorem keepPending_src : (keepPending pb v s).src = s.src := rfl
@[simp] theorem keepPending_inbox : (keepPending pb v s).inbox = s.inbox := rfl

end keepPendingFields

section setKFields
variable (k : Nat) (s : State)

@[simp] theorem setK_ir : (setK k s).ir = s.ir := rfl
@[simp] theorem setK_word : (setK k s).word = s.word := rfl
@[simp] theorem setK_res : (setK k s).res = s.res := rfl
@[simp] theorem setK_resValid : (setK k s).resValid = s.resValid := rfl
@[simp] theorem setK_status : (setK k s).status = s.status := rfl
@[simp] theorem setK_rdcnt : (setK k s).rdcnt = s.rdcnt := rfl
@[simp] theorem setK_val : (setK k s).val = s.val := rfl
@[simp] theorem setK_wops : (setK k s).wops = s.wops := rfl
@[simp] theorem setK_wlen : (setK k s).wlen = s.wlen := rfl
@[simp] theorem setK_cur : (setK k s).cur = s.cur := rfl
@[simp] theorem setK_k : (setK k s).k = Fin.ofNat 9 k := rfl
@[simp] theorem setK_acc : (setK k s).acc = s.acc := rfl
@[simp] theorem setK_pendBits : (setK k s).pendBits = s.pendBits := rfl
@[simp] theorem setK_pendVal : (setK k s).pendVal = s.pendVal := rfl
@[simp] theorem setK_work : (setK k s).work = s.work := rfl
@[simp] theorem setK_phase : (setK k s).phase = s.phase := rfl
@[simp] theorem setK_encC : (setK k s).encC = s.encC := rfl
@[simp] theorem setK_src : (setK k s).src = s.src := rfl
@[simp] theorem setK_inbox : (setK k s).inbox = s.inbox := rfl

end setKFields

section writeOperandFields
variable (v : Chunk) (s : State)

@[simp] theorem writeOperand_ir : (writeOperand v s).ir = s.ir := rfl
@[simp] theorem writeOperand_word : (writeOperand v s).word = s.word := rfl
@[simp] theorem writeOperand_res : (writeOperand v s).res = s.res := rfl
@[simp] theorem writeOperand_resValid : (writeOperand v s).resValid = s.resValid := rfl
@[simp] theorem writeOperand_status : (writeOperand v s).status = s.status := rfl
@[simp] theorem writeOperand_rdcnt : (writeOperand v s).rdcnt = s.rdcnt := rfl
@[simp] theorem writeOperand_val : (writeOperand v s).val = s.val.set s.k (v.setWidth 64) := rfl
@[simp] theorem writeOperand_wops : (writeOperand v s).wops = s.wops := rfl
@[simp] theorem writeOperand_wlen : (writeOperand v s).wlen = s.wlen := rfl
@[simp] theorem writeOperand_cur : (writeOperand v s).cur = s.cur := rfl
@[simp] theorem writeOperand_k : (writeOperand v s).k = s.k := rfl
@[simp] theorem writeOperand_acc : (writeOperand v s).acc = s.acc := rfl
@[simp] theorem writeOperand_pendBits : (writeOperand v s).pendBits = s.pendBits := rfl
@[simp] theorem writeOperand_pendVal : (writeOperand v s).pendVal = s.pendVal := rfl
@[simp] theorem writeOperand_work : (writeOperand v s).work = s.work := rfl
@[simp] theorem writeOperand_phase : (writeOperand v s).phase = s.phase := rfl
@[simp] theorem writeOperand_encC : (writeOperand v s).encC = s.encC := rfl
@[simp] theorem writeOperand_src : (writeOperand v s).src = s.src := rfl
@[simp] theorem writeOperand_inbox : (writeOperand v s).inbox = s.inbox := rfl

end writeOperandFields

section pass1ReplaceFields
variable (r : Int) (s : State)

@[simp] theorem pass1Replace_ir : (pass1Replace r s).ir = s.ir := rfl
@[simp] theorem pass1Replace_word : (pass1Replace r s).word = s.word := rfl
@[simp] theorem pass1Replace_res : (pass1Replace r s).res = s.res := rfl
@[simp] theorem pass1Replace_resValid : (pass1Replace r s).resValid = s.resValid := rfl
@[simp] theorem pass1Replace_status : (pass1Replace r s).status = s.status := rfl
@[simp] theorem pass1Replace_rdcnt : (pass1Replace r s).rdcnt = s.rdcnt := rfl
@[simp] theorem pass1Replace_val : (pass1Replace r s).val = closeVal (s.val.set s.cur (BitVec.ofInt 64 r)) s.cur s.wlen := rfl
@[simp] theorem pass1Replace_wops : (pass1Replace r s).wops = closeOps s.wops s.cur s.wlen := rfl
@[simp] theorem pass1Replace_cur : (pass1Replace r s).cur = s.cur := rfl
@[simp] theorem pass1Replace_k : (pass1Replace r s).k = s.k := rfl
@[simp] theorem pass1Replace_acc : (pass1Replace r s).acc = s.acc := rfl
@[simp] theorem pass1Replace_pendBits : (pass1Replace r s).pendBits = s.pendBits := rfl
@[simp] theorem pass1Replace_pendVal : (pass1Replace r s).pendVal = s.pendVal := rfl
@[simp] theorem pass1Replace_work : (pass1Replace r s).work = s.work := rfl
@[simp] theorem pass1Replace_phase : (pass1Replace r s).phase = s.phase := rfl
@[simp] theorem pass1Replace_encC : (pass1Replace r s).encC = s.encC := rfl
@[simp] theorem pass1Replace_src : (pass1Replace r s).src = s.src := rfl
@[simp] theorem pass1Replace_inbox : (pass1Replace r s).inbox = s.inbox := rfl
@[simp] theorem pass1Replace_wlen_val : ((pass1Replace r s).wlen).val = s.wlen.val - 1 := rfl

end pass1ReplaceFields

section stageCodeFields
variable (i : Fin 8) (code : OpCode) (s : State)

@[simp] theorem stageCode_ir : (stageCode i code s).ir = s.ir := rfl
@[simp] theorem stageCode_word : (stageCode i code s).word = s.word := rfl
@[simp] theorem stageCode_res : (stageCode i code s).res = s.res := rfl
@[simp] theorem stageCode_resValid : (stageCode i code s).resValid = s.resValid := rfl
@[simp] theorem stageCode_status : (stageCode i code s).status = s.status := rfl
@[simp] theorem stageCode_rdcnt : (stageCode i code s).rdcnt = s.rdcnt := rfl
@[simp] theorem stageCode_val : (stageCode i code s).val = s.val := rfl
@[simp] theorem stageCode_wops : (stageCode i code s).wops = s.wops := rfl
@[simp] theorem stageCode_wlen : (stageCode i code s).wlen = s.wlen := rfl
@[simp] theorem stageCode_cur : (stageCode i code s).cur = s.cur := rfl
@[simp] theorem stageCode_k : (stageCode i code s).k = s.k := rfl
@[simp] theorem stageCode_acc : (stageCode i code s).acc = s.acc := rfl
@[simp] theorem stageCode_pendBits : (stageCode i code s).pendBits = s.pendBits := rfl
@[simp] theorem stageCode_pendVal : (stageCode i code s).pendVal = s.pendVal := rfl
@[simp] theorem stageCode_work : (stageCode i code s).work = s.work := rfl
@[simp] theorem stageCode_phase : (stageCode i code s).phase = s.phase := rfl
@[simp] theorem stageCode_encC : (stageCode i code s).encC = s.encC.set i code := rfl
@[simp] theorem stageCode_src : (stageCode i code s).src = s.src := rfl
@[simp] theorem stageCode_inbox : (stageCode i code s).inbox = s.inbox := rfl

end stageCodeFields

section encFailFields
variable (f : FaultKind) (s : State)

@[simp] theorem encFail_ir : (encFail f s).ir = s.ir := rfl
@[simp] theorem encFail_word : (encFail f s).word = 0 := rfl
@[simp] theorem encFail_res : (encFail f s).res = s.res := rfl
@[simp] theorem encFail_resValid : (encFail f s).resValid = s.resValid := rfl
@[simp] theorem encFail_status : (encFail f s).status = f.code := rfl
@[simp] theorem encFail_rdcnt : (encFail f s).rdcnt = s.rdcnt := rfl
@[simp] theorem encFail_val : (encFail f s).val = s.val := rfl
@[simp] theorem encFail_wops : (encFail f s).wops = s.wops := rfl
@[simp] theorem encFail_wlen : (encFail f s).wlen = s.wlen := rfl
@[simp] theorem encFail_cur : (encFail f s).cur = s.cur := rfl
@[simp] theorem encFail_k : (encFail f s).k = s.k := rfl
@[simp] theorem encFail_acc : (encFail f s).acc = s.acc := rfl
@[simp] theorem encFail_pendBits : (encFail f s).pendBits = s.pendBits := rfl
@[simp] theorem encFail_pendVal : (encFail f s).pendVal = s.pendVal := rfl
@[simp] theorem encFail_work : (encFail f s).work = s.work := rfl
@[simp] theorem encFail_phase : (encFail f s).phase = .idle := rfl
@[simp] theorem encFail_encC : (encFail f s).encC = s.encC := rfl
@[simp] theorem encFail_src : (encFail f s).src = s.src := rfl
@[simp] theorem encFail_inbox : (encFail f s).inbox = s.inbox := rfl

end encFailFields

section encLoadFields
variable (n d : Nat) (s : State)

@[simp] theorem encLoad_ir : (encLoad n d s).ir = ⟨true, BitVec.ofNat 3 (n - 1), BitVec.ofNat 4 (d - 1), keepFirst n s.encC⟩ := rfl
@[simp] theorem encLoad_word : (encLoad n d s).word = encWord n d s.encC := rfl
@[simp] theorem encLoad_res : (encLoad n d s).res = s.res := rfl
@[simp] theorem encLoad_resValid : (encLoad n d s).resValid = s.resValid := rfl
@[simp] theorem encLoad_status : (encLoad n d s).status = statusOk := rfl
@[simp] theorem encLoad_rdcnt : (encLoad n d s).rdcnt = s.rdcnt := rfl
@[simp] theorem encLoad_val : (encLoad n d s).val = s.val := rfl
@[simp] theorem encLoad_wops : (encLoad n d s).wops = s.wops := rfl
@[simp] theorem encLoad_wlen : (encLoad n d s).wlen = s.wlen := rfl
@[simp] theorem encLoad_cur : (encLoad n d s).cur = s.cur := rfl
@[simp] theorem encLoad_k : (encLoad n d s).k = s.k := rfl
@[simp] theorem encLoad_acc : (encLoad n d s).acc = s.acc := rfl
@[simp] theorem encLoad_pendBits : (encLoad n d s).pendBits = s.pendBits := rfl
@[simp] theorem encLoad_pendVal : (encLoad n d s).pendVal = s.pendVal := rfl
@[simp] theorem encLoad_work : (encLoad n d s).work = s.work := rfl
@[simp] theorem encLoad_phase : (encLoad n d s).phase = s.phase := rfl
@[simp] theorem encLoad_encC : (encLoad n d s).encC = s.encC := rfl
@[simp] theorem encLoad_src : (encLoad n d s).src = s.src := rfl
@[simp] theorem encLoad_inbox : (encLoad n d s).inbox = s.inbox := rfl

end encLoadFields

section clearResultFields
variable (s : State)

@[simp] theorem clearResult_ir : (clearResult s).ir = s.ir := rfl
@[simp] theorem clearResult_word : (clearResult s).word = s.word := rfl
@[simp] theorem clearResult_res : (clearResult s).res = s.res := rfl
@[simp] theorem clearResult_resValid : (clearResult s).resValid = false := rfl
@[simp] theorem clearResult_status : (clearResult s).status = s.status := rfl
@[simp] theorem clearResult_rdcnt : (clearResult s).rdcnt = 0 := rfl
@[simp] theorem clearResult_val : (clearResult s).val = s.val := rfl
@[simp] theorem clearResult_wops : (clearResult s).wops = s.wops := rfl
@[simp] theorem clearResult_wlen : (clearResult s).wlen = s.wlen := rfl
@[simp] theorem clearResult_cur : (clearResult s).cur = s.cur := rfl
@[simp] theorem clearResult_k : (clearResult s).k = s.k := rfl
@[simp] theorem clearResult_acc : (clearResult s).acc = s.acc := rfl
@[simp] theorem clearResult_pendBits : (clearResult s).pendBits = s.pendBits := rfl
@[simp] theorem clearResult_pendVal : (clearResult s).pendVal = s.pendVal := rfl
@[simp] theorem clearResult_work : (clearResult s).work = s.work := rfl
@[simp] theorem clearResult_phase : (clearResult s).phase = s.phase := rfl
@[simp] theorem clearResult_encC : (clearResult s).encC = s.encC := rfl
@[simp] theorem clearResult_src : (clearResult s).src = s.src := rfl
@[simp] theorem clearResult_inbox : (clearResult s).inbox = s.inbox := rfl

end clearResultFields

section startUnpackFields
variable (s : State)

@[simp] theorem startUnpack_ir : (startUnpack s).ir = s.ir := rfl
@[simp] theorem startUnpack_word : (startUnpack s).word = s.word := rfl
@[simp] theorem startUnpack_res : (startUnpack s).res = s.res := rfl
@[simp] theorem startUnpack_resValid : (startUnpack s).resValid = s.resValid := rfl
@[simp] theorem startUnpack_status : (startUnpack s).status = s.status := rfl
@[simp] theorem startUnpack_rdcnt : (startUnpack s).rdcnt = s.rdcnt := rfl
@[simp] theorem startUnpack_val : (startUnpack s).val = s.val := rfl
@[simp] theorem startUnpack_wops : (startUnpack s).wops = s.ir.op := rfl
@[simp] theorem startUnpack_cur : (startUnpack s).cur = s.cur := rfl
@[simp] theorem startUnpack_k : (startUnpack s).k = s.k := rfl
@[simp] theorem startUnpack_acc : (startUnpack s).acc = s.acc := rfl
@[simp] theorem startUnpack_pendBits : (startUnpack s).pendBits = 0 := rfl
@[simp] theorem startUnpack_pendVal : (startUnpack s).pendVal = 0 := rfl
@[simp] theorem startUnpack_work : (startUnpack s).work = 0 := rfl
@[simp] theorem startUnpack_phase : (startUnpack s).phase = .unpack := rfl
@[simp] theorem startUnpack_encC : (startUnpack s).encC = s.encC := rfl
@[simp] theorem startUnpack_src : (startUnpack s).src = s.src := rfl
@[simp] theorem startUnpack_inbox : (startUnpack s).inbox = s.inbox := rfl
@[simp] theorem startUnpack_wlen_val : ((startUnpack s).wlen).val = irN s.ir := rfl

end startUnpackFields

section writeResultFields
variable (s : State)

@[simp] theorem writeResult_ir : (writeResult s).ir = s.ir := rfl
@[simp] theorem writeResult_word : (writeResult s).word = s.word := rfl
@[simp] theorem writeResult_res : (writeResult s).res = s.acc := rfl
@[simp] theorem writeResult_resValid : (writeResult s).resValid = true := rfl
@[simp] theorem writeResult_status : (writeResult s).status = statusOk := rfl
@[simp] theorem writeResult_rdcnt : (writeResult s).rdcnt = s.rdcnt := rfl
@[simp] theorem writeResult_val : (writeResult s).val = s.val := rfl
@[simp] theorem writeResult_wops : (writeResult s).wops = s.wops := rfl
@[simp] theorem writeResult_wlen : (writeResult s).wlen = s.wlen := rfl
@[simp] theorem writeResult_cur : (writeResult s).cur = s.cur := rfl
@[simp] theorem writeResult_k : (writeResult s).k = s.k := rfl
@[simp] theorem writeResult_acc : (writeResult s).acc = s.acc := rfl
@[simp] theorem writeResult_pendBits : (writeResult s).pendBits = s.pendBits := rfl
@[simp] theorem writeResult_pendVal : (writeResult s).pendVal = s.pendVal := rfl
@[simp] theorem writeResult_work : (writeResult s).work = s.work := rfl
@[simp] theorem writeResult_phase : (writeResult s).phase = .idle := rfl
@[simp] theorem writeResult_encC : (writeResult s).encC = s.encC := rfl
@[simp] theorem writeResult_src : (writeResult s).src = s.src := rfl
@[simp] theorem writeResult_inbox : (writeResult s).inbox = s.inbox := rfl

end writeResultFields

section resetRegsFields
variable (s : State)

@[simp] theorem resetRegs_ir : (resetRegs s).ir = State.reset.ir := rfl
@[simp] theorem resetRegs_word : (resetRegs s).word = State.reset.word := rfl
@[simp] theorem resetRegs_res : (resetRegs s).res = State.reset.res := rfl
@[simp] theorem resetRegs_resValid : (resetRegs s).resValid = State.reset.resValid := rfl
@[simp] theorem resetRegs_status : (resetRegs s).status = State.reset.status := rfl
@[simp] theorem resetRegs_rdcnt : (resetRegs s).rdcnt = State.reset.rdcnt := rfl
@[simp] theorem resetRegs_val : (resetRegs s).val = State.reset.val := rfl
@[simp] theorem resetRegs_wops : (resetRegs s).wops = State.reset.wops := rfl
@[simp] theorem resetRegs_wlen : (resetRegs s).wlen = State.reset.wlen := rfl
@[simp] theorem resetRegs_cur : (resetRegs s).cur = State.reset.cur := rfl
@[simp] theorem resetRegs_k : (resetRegs s).k = State.reset.k := rfl
@[simp] theorem resetRegs_acc : (resetRegs s).acc = State.reset.acc := rfl
@[simp] theorem resetRegs_pendBits : (resetRegs s).pendBits = State.reset.pendBits := rfl
@[simp] theorem resetRegs_pendVal : (resetRegs s).pendVal = State.reset.pendVal := rfl
@[simp] theorem resetRegs_work : (resetRegs s).work = State.reset.work := rfl
@[simp] theorem resetRegs_phase : (resetRegs s).phase = State.reset.phase := rfl
@[simp] theorem resetRegs_encC : (resetRegs s).encC = State.reset.encC := rfl
@[simp] theorem resetRegs_src : (resetRegs s).src = s.src := rfl
@[simp] theorem resetRegs_inbox : (resetRegs s).inbox = s.inbox := rfl

end resetRegsFields

section pass1SkipFields
variable (s : State)

@[simp] theorem pass1Skip_ir : (pass1Skip s).ir = s.ir := by
  unfold pass1Skip
  split <;> rfl
@[simp] theorem pass1Skip_word : (pass1Skip s).word = s.word := by
  unfold pass1Skip
  split <;> rfl
@[simp] theorem pass1Skip_res : (pass1Skip s).res = s.res := by
  unfold pass1Skip
  split <;> rfl
@[simp] theorem pass1Skip_resValid : (pass1Skip s).resValid = s.resValid := by
  unfold pass1Skip
  split <;> rfl
@[simp] theorem pass1Skip_status : (pass1Skip s).status = s.status := by
  unfold pass1Skip
  split <;> rfl
@[simp] theorem pass1Skip_rdcnt : (pass1Skip s).rdcnt = s.rdcnt := by
  unfold pass1Skip
  split <;> rfl
@[simp] theorem pass1Skip_val : (pass1Skip s).val = s.val := by
  unfold pass1Skip
  split <;> rfl
@[simp] theorem pass1Skip_wops : (pass1Skip s).wops = s.wops := by
  unfold pass1Skip
  split <;> rfl
@[simp] theorem pass1Skip_wlen : (pass1Skip s).wlen = s.wlen := by
  unfold pass1Skip
  split <;> rfl
@[simp] theorem pass1Skip_k : (pass1Skip s).k = s.k := by
  unfold pass1Skip
  split <;> rfl
@[simp] theorem pass1Skip_acc : (pass1Skip s).acc = s.acc := by
  unfold pass1Skip
  split <;> rfl
@[simp] theorem pass1Skip_pendBits : (pass1Skip s).pendBits = s.pendBits := by
  unfold pass1Skip
  split <;> rfl
@[simp] theorem pass1Skip_pendVal : (pass1Skip s).pendVal = s.pendVal := by
  unfold pass1Skip
  split <;> rfl
@[simp] theorem pass1Skip_work : (pass1Skip s).work = s.work := by
  unfold pass1Skip
  split <;> rfl
@[simp] theorem pass1Skip_phase : (pass1Skip s).phase = s.phase := by
  unfold pass1Skip
  split <;> rfl
@[simp] theorem pass1Skip_encC : (pass1Skip s).encC = s.encC := by
  unfold pass1Skip
  split <;> rfl
@[simp] theorem pass1Skip_src : (pass1Skip s).src = s.src := by
  unfold pass1Skip
  split <;> rfl
@[simp] theorem pass1Skip_inbox : (pass1Skip s).inbox = s.inbox := by
  unfold pass1Skip
  split <;> rfl

theorem pass1Skip_cur_val (h : s.cur.val < s.wlen.val) : ((pass1Skip s).cur).val = s.cur.val + 1 := by
  unfold pass1Skip
  rw [dif_pos h]

end pass1SkipFields

/-- Two states with equal fields are equal. -/
theorem State.ext_fields {s t : State} (hir : s.ir = t.ir) (hword : s.word = t.word) (hres : s.res = t.res)
    (hresValid : s.resValid = t.resValid) (hstatus : s.status = t.status) (hrdcnt : s.rdcnt = t.rdcnt)
    (hval : s.val = t.val) (hwops : s.wops = t.wops) (hwlen : s.wlen = t.wlen) (hcur : s.cur = t.cur)
    (hk : s.k = t.k) (hacc : s.acc = t.acc) (hpendBits : s.pendBits = t.pendBits)
    (hpendVal : s.pendVal = t.pendVal) (hwork : s.work = t.work) (hphase : s.phase = t.phase)
    (hencC : s.encC = t.encC) (hsrc : s.src = t.src) (hinbox : s.inbox = t.inbox) : s = t := by
  cases s
  cases t
  simp_all

end Sys2Proof.Machine
end

