-- ==== Sys2Proof/Laws/Ops.lean ====
section
/-! SUPPORT. What the shared operations of Machine/Ops.lean can do, each said once: sequencing, how a command ends,
reading a chunk, and what a step fetches. -/

namespace Sys2Proof.Machine

section Sequencing
variable {α β γ : Type}

@[simp] theorem andThen_ok (a : α) (f : α → Except Halt β) : andThen (.ok a) f = f a := rfl

@[simp] theorem andThen_error (h : Halt) (f : α → Except Halt β) : andThen (.error h) f = .error h := rfl

@[simp] theorem andThen_raise (k : FaultKind) (s : State) (f : α → Except Halt β) :
    andThen (raise k s) f = raise k s := rfl

theorem andThen_eq_ok {r : Except Halt α} {f : α → Except Halt β} {b : β} :
    andThen r f = .ok b ↔ ∃ a, r = .ok a ∧ f a = .ok b := by
  cases r <;> simp

theorem andThen_eq_error {r : Except Halt α} {f : α → Except Halt β} {h : Halt} :
    andThen r f = .error h ↔ r = .error h ∨ ∃ a, r = .ok a ∧ f a = .error h := by
  cases r <;> simp

theorem andThen_assoc (r : Except Halt α) (f : α → Except Halt β) (g : β → Except Halt γ) :
    andThen (andThen r f) g = andThen r fun a => andThen (f a) g := by
  cases r <;> rfl

end Sequencing

section Ending

@[simp] theorem finish_ok (s : State) : finish (.ok s) = .next s := rfl

@[simp] theorem finish_raise (k : FaultKind) (s : State) : finish (raise k s) = .next (takeFault k s) := rfl

@[simp] theorem finish_raised (s : State) : finish (.error (.raised s)) = .next s := rfl

@[simp] theorem finish_silent : finish (.error .silent) = .fault .sourceSilent := rfl

theorem finish_eq_next {r : Except Halt State} {t : State} :
    finish r = .next t ↔ r = .ok t ∨ r = .error (.raised t) := by
  rcases r with (_ | _) | _ <;> simp [finish]

theorem finish_eq_fault {r : Except Halt State} {e : Fault} : finish r = .fault e ↔ r = .error .silent := by
  cases e
  rcases r with (_ | _) | _ <;> simp [finish]

theorem finish_ne_refused {r : Except Halt State} {e : Refusal} : finish r ≠ .refused e := by
  rcases r with (_ | _) | _ <;> simp [finish]

end Ending

section Source

/-- Only a silent tail leaves a read without an answer (70_reset_and_hazards.md R209). -/
theorem sourceAt_never {src : Source} {p : Nat} (h : sourceAt src p = .never) : src.tail = .silent := by
  unfold sourceAt at h
  split at h
  · rename_i r _
    cases r <;> simp [answerOf] at h
  · split at h
    · cases h
    · revert h
      cases Config.endlessSrc p <;> simp [answerOf]
    · assumption

/-- Every read has one of the four answers, and this is what `ReadChunk()` does with each (20_memory.md R41). -/
theorem readChunk_cases (s : State) :
    (∃ v, sourceAt s.src s.src.pos = .chunk v ∧ readChunk s = .ok (v, countRead (advance s))) ∨
      (sourceAt s.src s.src.pos = .malformed ∧ readChunk s = raise .malformedInput (advance s)) ∨
      (sourceAt s.src s.src.pos = .endOfInput ∧ readChunk s = raise .streamExhausted s) ∨
      (sourceAt s.src s.src.pos = .never ∧ readChunk s = .error .silent) := by
  unfold readChunk
  cases sourceAt s.src s.src.pos <;> simp

theorem readChunk_chunk {s : State} {v : Chunk} (h : sourceAt s.src s.src.pos = .chunk v) :
    readChunk s = .ok (v, countRead (advance s)) := by
  simp [readChunk, h]

theorem readChunk_malformed {s : State} (h : sourceAt s.src s.src.pos = .malformed) :
    readChunk s = raise .malformedInput (advance s) := by
  simp [readChunk, h]

theorem readChunk_endOfInput {s : State} (h : sourceAt s.src s.src.pos = .endOfInput) :
    readChunk s = raise .streamExhausted s := by
  simp [readChunk, h]

theorem readChunk_never {s : State} (h : sourceAt s.src s.src.pos = .never) :
    readChunk s = .error .silent := by
  simp [readChunk, h]

theorem readChunk_eq_ok {s t : State} {v : Chunk} :
    readChunk s = .ok (v, t) ↔ sourceAt s.src s.src.pos = .chunk v ∧ t = countRead (advance s) := by
  unfold readChunk
  cases sourceAt s.src s.src.pos <;> simp [raise]
  exact fun _ => eq_comm

end Source

section Stepping

/-- Everything a step can be: an idle wait, a command run in the state without it, a reset, a new source. -/
theorem step_cases (s : State) :
    (s.inbox = [] ∧ step s = .next s) ∨
      (∃ p rest, s.inbox = .command p :: rest ∧ step s = exec (decodePacket p) { s with inbox := rest }) ∨
      (∃ rest, s.inbox = .reset :: rest ∧ step s = .next (resetRegs { s with inbox := rest })) ∨
      ∃ src rest, s.inbox = .present src :: rest ∧
        step s = .next (presentSource src { s with inbox := rest }) := by
  unfold step fetch
  rcases h : s.inbox with _ | ⟨(p | _ | src), rest⟩ <;> simp

/-- Taking an issued command out again gives the state before it was issued. -/
theorem fetch_issueFirst (p : Packet) (s : State) : fetch (issueFirst p s) = .run p s := rfl

end Stepping

end Sys2Proof.Machine
end

