-- ==== Sys2Proof/Laws/Operands.lean ====
section
/-! SUPPORT. Bit fields as numbers, the slots of the small register arrays, and the cases of the two extraction
modes. -/

namespace Sys2Proof.Machine

section Bits

theorem field_lt (v lo len : Nat) : field v lo len < 2 ^ len := Nat.mod_lt _ (by positivity)

theorem field_of_le {v lo len : Nat} (h : v < 2 ^ (lo + len)) : field v lo len = v / 2 ^ lo := by
  refine Nat.mod_eq_of_lt (Nat.div_lt_of_lt_mul ?_)
  rwa [← pow_add]

@[simp] theorem lowBits_toNat {v : Chunk} {len : Nat} (h : len ≤ 16) : (lowBits v len).toNat = v.toNat % 2 ^ len := by
  have hlt : v.toNat % 2 ^ len < 2 ^ 16 :=
    lt_of_lt_of_le (Nat.mod_lt _ (by positivity)) (Nat.pow_le_pow_right (by norm_num) h)
  rw [lowBits, BitVec.toNat_ofNat, field, pow_zero, Nat.div_one, Nat.mod_eq_of_lt hlt]

@[simp] theorem topBits_toNat {v : Chunk} {len : Nat} (h : len ≤ 16) :
    (topBits v len).toNat = v.toNat / 2 ^ (16 - len) := by
  have hv : v.toNat < 2 ^ (16 - len + len) := by
    rw [Nat.sub_add_cancel h]
    exact v.isLt
  have hlt : v.toNat / 2 ^ (16 - len) < 2 ^ 16 := lt_of_le_of_lt (Nat.div_le_self _ _) v.isLt
  rw [topBits, BitVec.toNat_ofNat, field_of_le hv, Nat.mod_eq_of_lt hlt]

/-- The pending value fits the pending bits after any extraction that keeps `pb` of them (41_unpacker.md R106). -/
theorem keepPending_small {pb : Nat} (h : pb ≤ 15) (v : Chunk) (s : State) :
    (keepPending pb v s).pendBits.toNat = pb ∧ (keepPending pb v s).pendVal.toNat < 2 ^ pb := by
  refine ⟨?_, ?_⟩
  · simp only [keepPending_pendBits, BitVec.toNat_ofNat]
    omega
  · rw [keepPending_pendVal, lowBits_toNat (by omega)]
    exact Nat.mod_lt _ (by positivity)

end Bits

section Slots

theorem keepFirst_get (n : Nat) (codes : Vector OpCode 8) (i : Fin 8) :
    (keepFirst n codes)[i] = if i.val < n then codes[i] else 0 := by
  simp [keepFirst]

theorem slotsOf_get (ops : List Op) (i : Fin 8) :
    (slotsOf ops)[i] = match ops[i.val]? with
      | some op => op.code
      | none => 0 := by
  unfold slotsOf
  exact Vector.getElem_ofFn _

theorem closeVal_get_moved {v : Vector I64 9} {cur wlen : Fin 9} {i : Nat} (hi : i + 1 < 9) (hc : cur.val < i)
    (hw : i < wlen.val) : (closeVal v cur wlen)[i] = v[i + 1] := by
  unfold closeVal
  rw [Vector.getElem_ofFn, dif_pos ⟨hc, hw⟩]

theorem closeVal_get_kept {v : Vector I64 9} {cur wlen : Fin 9} {i : Nat} (hi : i < 9)
    (h : i ≤ cur.val ∨ wlen.val ≤ i) : (closeVal v cur wlen)[i] = v[i] := by
  have : ¬(cur.val < i ∧ i < wlen.val) := by omega
  unfold closeVal
  rw [Vector.getElem_ofFn, dif_neg this]
  rfl

theorem closeOps_get_moved {o : Vector OpCode 8} {cur wlen : Fin 9} {i : Nat} (hi : i + 1 < 8) (hc : cur.val ≤ i)
    (hw : i + 1 < wlen.val) : (closeOps o cur wlen)[i] = o[i + 1] := by
  unfold closeOps
  rw [Vector.getElem_ofFn, dif_pos ⟨hc, hw⟩]

theorem closeOps_get_kept {o : Vector OpCode 8} {cur wlen : Fin 9} {i : Nat} (hi : i < 8)
    (h : i < cur.val ∨ wlen.val ≤ i + 1) : (closeOps o cur wlen)[i] = o[i] := by
  have : ¬(cur.val ≤ i ∧ i + 1 < wlen.val) := by omega
  unfold closeOps
  rw [Vector.getElem_ofFn, dif_neg this]
  rfl

end Slots

section Extraction

/-- Case C of 41_unpacker.md R104: enough pending bits, no read. -/
theorem extractCarry_pending {d : Nat} {s : State} (h : d ≤ s.pendBits.toNat) :
    extractCarry d s = .ok (BitVec.ofNat 16 (field s.pendVal.toNat (s.pendBits.toNat - d) d),
      keepPending (s.pendBits.toNat - d) s.pendVal s) := by
  simp [extractCarry, h]

/-- Case A of 41_unpacker.md R104: nothing pending, a read. -/
theorem extractCarry_fresh {d : Nat} {s : State} (hd : 1 ≤ d) (h : s.pendBits.toNat = 0) :
    extractCarry d s = andThen (readChunk s) fun r => .ok (topBits r.1 d, keepPending (16 - d) r.1 r.2) := by
  have : ¬d ≤ s.pendBits.toNat := by omega
  unfold extractCarry
  rw [if_neg this, if_pos h]

/-- Case B of 41_unpacker.md R104: the operand straddles, a read. -/
theorem extractCarry_straddle {d : Nat} {s : State} (h0 : s.pendBits.toNat ≠ 0) (h : s.pendBits.toNat < d) :
    extractCarry d s = andThen (readChunk s) fun r =>
      .ok (s.pendVal <<< (d - s.pendBits.toNat) ||| topBits r.1 (d - s.pendBits.toNat),
        keepPending (16 - (d - s.pendBits.toNat)) r.1 r.2) := by
  have : ¬d ≤ s.pendBits.toNat := by omega
  unfold extractCarry
  rw [if_neg this, if_neg h0]

/-- A successful extraction leaves everything but the unpacker's registers, `RDCNT` and the read position. -/
theorem extract_frame {mode : ExtractMode} {d : Nat} {s t : State} {v : Chunk} (h : extract mode d s = .ok (v, t)) :
    t = { s with
      pendBits := t.pendBits, pendVal := t.pendVal, work := t.work, rdcnt := t.rdcnt, src := t.src } := by
  have hread : ∀ {u : State} {w : Chunk}, readChunk s = .ok (w, u) → u = countRead (advance s) :=
    fun hr => (readChunk_eq_ok.mp hr).2
  cases mode
  · obtain ⟨u, hu, ht⟩ := andThen_eq_ok.mp h
    cases ht
    unfold refillWork at hu
    split at hu
    · obtain ⟨⟨w, u'⟩, hr, hu'⟩ := andThen_eq_ok.mp hu
      obtain rfl := hread hr
      cases hu'
      rfl
    · cases hu
      rfl
  · unfold extract extractCarry at h
    simp only at h
    split at h
    · cases h
      rfl
    · split at h <;>
        · obtain ⟨⟨w, u⟩, hr, ht⟩ := andThen_eq_ok.mp h
          obtain rfl := hread hr
          cases ht
          rfl

/-- A failed extraction is the failed read, raised from the state before it. -/
theorem extract_error {mode : ExtractMode} {d : Nat} {s : State} {e : Halt} (h : extract mode d s = .error e) :
    readChunk s = .error e := by
  cases mode
  · rcases andThen_eq_error.mp h with hu | ⟨u, _, hu⟩
    · unfold refillWork at hu
      split at hu
      · rcases andThen_eq_error.mp hu with hr | ⟨_, _, hr⟩
        · exact hr
        · cases hr
      · cases hu
    · cases hu
  · unfold extract extractCarry at h
    simp only at h
    split at h
    · cases h
    · split at h <;>
        · rcases andThen_eq_error.mp h with hr | ⟨_, _, hr⟩
          · exact hr
          · cases hr

@[simp] theorem unpackFrom_zero (mode : ExtractMode) (d k : Nat) (s : State) : unpackFrom mode d 0 k s = .ok s := rfl

theorem unpackFrom_succ (mode : ExtractMode) (d left k : Nat) (s : State) :
    unpackFrom mode d (left + 1) k s =
      andThen (extract mode d (setK k s)) fun r => unpackFrom mode d left (k + 1) (writeOperand r.1 r.2) := rfl

end Extraction

end Sys2Proof.Machine
end

