-- ==== Sys2Proof/Laws/Alu.lean ====
section
/-! SUPPORT. What the ALU and the reducer's two sites can do. -/

namespace Sys2Proof.Machine

section Alu

theorem narrow_of_mem {r : Int} (h1 : -2 ^ 63 ≤ r) (h2 : r ≤ 2 ^ 63 - 1) : narrow r = .ok r := by
  simp only [narrow, inI64, h1, h2, decide_true, Bool.and_self, if_true]

theorem narrow_of_not_mem {r : Int} (h : r < -2 ^ 63 ∨ 2 ^ 63 - 1 < r) : narrow r = .error .overflow := by
  have : ¬(-2 ^ 63 ≤ r ∧ r ≤ 2 ^ 63 - 1) := by omega
  simp only [narrow, inI64, Bool.and_eq_true, decide_eq_true_eq, this, if_false]

/-- The range test accepts exactly the members of `I64`, unchanged (42_alu.md R125). -/
theorem narrow_eq_ok {r x : Int} : narrow r = .ok x ↔ x = r ∧ -2 ^ 63 ≤ r ∧ r ≤ 2 ^ 63 - 1 := by
  by_cases h : -2 ^ 63 ≤ r ∧ r ≤ 2 ^ 63 - 1
  · rw [narrow_of_mem h.1 h.2]
    simp only [Except.ok.injEq, h, and_true]
    exact eq_comm
  · rw [narrow_of_not_mem (by omega)]
    simp only [reduceCtorEq, h, and_false]

theorem narrow_eq_error {r : Int} {f : FaultKind} (h : narrow r = .error f) : f = .overflow := by
  unfold narrow at h
  split at h
  · cases h
  · cases h
    rfl

/-- An ALU result is the number its register holds. -/
theorem toInt_ofInt_of_mem {r : Int} (h1 : -2 ^ 63 ≤ r) (h2 : r ≤ 2 ^ 63 - 1) : (BitVec.ofInt 64 r).toInt = r := by
  rw [BitVec.toInt_ofInt]
  exact Int.bmod_eq_of_le (by omega) (by omega)

/-- An ALU result is a member of `I64` (42_alu.md R120). -/
theorem alu_ok_mem {op : Op} {a b r : Int} (h : alu op a b = .ok r) : -2 ^ 63 ≤ r ∧ r ≤ 2 ^ 63 - 1 := by
  cases op <;> simp only [alu, aluAdd, aluSub, aluMul, aluDiv] at h
  case div =>
    split at h
    · cases h
    · obtain ⟨rfl, hr⟩ := narrow_eq_ok.mp h
      exact hr
  all_goals
    obtain ⟨rfl, hr⟩ := narrow_eq_ok.mp h
    exact hr

/-- An ALU fault is `DivideByZero` or `Overflow` (42_alu.md R120). -/
theorem alu_error {op : Op} {a b : Int} {f : FaultKind} (h : alu op a b = .error f) :
    f = .divideByZero ∨ f = .overflow := by
  cases op <;> simp only [alu, aluAdd, aluSub, aluMul, aluDiv] at h
  case div =>
    split at h
    · cases h
      exact .inl rfl
    · exact .inr (narrow_eq_error h)
  all_goals exact .inr (narrow_eq_error h)

end Alu

section Sites

/-- Everything an iteration of the fold can do (43_evaluators.md R145). -/
theorem foldWith_cases (f : Int → Int → Except FaultKind Int) (j : Fin 8) (s : State) :
    (s.wlen.val ≤ j.val ∧ foldWith f j s = .ok s) ∨
      (j.val < s.wlen.val ∧ ∃ r, f s.acc.toInt (s.val[j.val + 1]).toInt = .ok r ∧
        foldWith f j s = .ok { s with acc := BitVec.ofInt 64 r }) ∨
      (j.val < s.wlen.val ∧ ∃ k, f s.acc.toInt (s.val[j.val + 1]).toInt = .error k ∧
        foldWith f j s = raise k s) := by
  unfold foldWith
  by_cases h : j.val < s.wlen.val
  · cases hf : f s.acc.toInt (s.val[j.val + 1]).toInt <;> simp [h]
  · simp [h]
    omega

/-- Everything an iteration of pass 1 at a Mul or Div can do (43_evaluators.md R144). -/
theorem pass1Reduce_cases (f : Int → Int → Except FaultKind Int) (s : State) :
    (s.wlen.val ≤ s.cur.val ∧ pass1Reduce f s = .ok s) ∨
      ∃ h : s.cur.val < s.wlen.val,
        (∃ r, f (s.val[s.cur]).toInt (s.val[s.cur.val + 1]'(by omega)).toInt = .ok r ∧
          pass1Reduce f s = .ok (pass1Replace r s)) ∨
        ∃ k, f (s.val[s.cur]).toInt (s.val[s.cur.val + 1]'(by omega)).toInt = .error k ∧
          pass1Reduce f s = raise k s := by
  by_cases h : s.cur.val < s.wlen.val
  · right
    refine ⟨h, ?_⟩
    cases hf : f (s.val[s.cur]).toInt (s.val[s.cur.val + 1]'(by omega)).toInt with
    | ok r =>
      left
      refine ⟨r, rfl, ?_⟩
      rw [pass1Reduce, dif_pos h, hf]
    | error k =>
      right
      refine ⟨k, rfl, ?_⟩
      rw [pass1Reduce, dif_pos h, hf]
  · left
    refine ⟨by omega, ?_⟩
    rw [pass1Reduce, dif_neg h]

/-- An operator at the fold applies its ALU function. -/
@[simp] theorem applyOp_fold (op : Op) (j : Fin 8) (s : State) : applyOp op (.fold j) s = foldWith (alu op) j s := by
  cases op <;> rfl

/-- An operator in pass 1 is reduced when Mul or Div and skipped when Add or Sub. -/
@[simp] theorem applyOp_pass1 (op : Op) (s : State) :
    applyOp op .pass1 s = if isHigh op then pass1Reduce (alu op) s else .ok (pass1Skip s) := by
  cases op <;> rfl

end Sites

end Sys2Proof.Machine
end

