-- ==== Sys2Proof/Laws/Encoding.lean ====
section
/-! SUPPORT. What the encoding tables give: the fields of a word built by concatenation, and each layout of
30_encoding.md R62 decoded from its own word. -/

namespace Sys2Proof

@[simp] theorem Op.ofCode_code (o : Op) : Op.ofCode o.code = o := by cases o <;> rfl

@[simp] theorem Op.code_ofCode (c : OpCode) : (Op.ofCode c).code = c := by
  revert c
  decide

theorem Op.code_eq_zero {o : Op} : o.code = 0 ↔ o = .add := by cases o <;> decide

/-- A field inside the low part of a concatenation. -/
theorem extract_append_low {a b : Nat} (x : BitVec a) (y : BitVec b) (start len : Nat) (h : start + len ≤ b) :
    (x ++ y).extractLsb' start len = y.extractLsb' start len := by
  apply BitVec.eq_of_getLsbD_eq
  intro i hi
  simp only [BitVec.getLsbD_extractLsb', BitVec.getLsbD_append, hi, decide_true, Bool.true_and]
  rw [if_pos (by omega)]

/-- A field inside the high part of a concatenation. -/
theorem extract_append_high {a b : Nat} (x : BitVec a) (y : BitVec b) (start len : Nat) (h : b ≤ start) :
    (x ++ y).extractLsb' start len = x.extractLsb' (start - b) len := by
  apply BitVec.eq_of_getLsbD_eq
  intro i hi
  simp only [BitVec.getLsbD_extractLsb', BitVec.getLsbD_append, hi, decide_true, Bool.true_and]
  rw [if_neg (by omega)]
  congr 1
  omega

/-- A word one of whose fields is not zero is not zero. -/
theorem word_ne_zero {w : Word32} (start len : Nat) (h : w.extractLsb' start len ≠ 0) : w ≠ 0 := by
  rintro rfl
  exact h (by simp)

/-- Layout EXPR1 of 30_encoding.md R62, decoded from its word. -/
theorem decodeWord_expr1 (op0 : Op) (dm1 : BitVec 4) (pad : BitVec 23)
    (h : (Instr.expr1 op0 dm1 pad).wellFormed = true) :
    decodeWord (0#3 ++ op0.code ++ dm1 ++ pad) =
      .expr1 op0 dm1 pad := by
  have hn : BitVec.extractLsb' 29 3 (0#3 ++ op0.code ++ dm1 ++ pad : Word32) = 0 := by
    simp [extract_append_high (a := 9) (b := 23),
    extract_append_high (a := 5) (b := 4),
    extract_append_high (a := 3) (b := 2)]
  have ho : BitVec.extractLsb' 27 2 (0#3 ++ op0.code ++ dm1 ++ pad : Word32) = op0.code := by
    simp [extract_append_high (a := 9) (b := 23), extract_append_high (a := 5) (b := 4),
      extract_append_low (a := 3) (b := 2)]
  have hd : BitVec.extractLsb' 23 4 (0#3 ++ op0.code ++ dm1 ++ pad : Word32) = dm1 := by
    simp [extract_append_high (a := 9) (b := 23), extract_append_low (a := 5) (b := 4)]
  have hp : BitVec.extractLsb' 0 23 (0#3 ++ op0.code ++ dm1 ++ pad : Word32) = pad := by
    simp [extract_append_low (a := 9) (b := 23)]
  have h0 : (0#3 ++ op0.code ++ dm1 ++ pad : Word32) ≠ 0 := by
    intro hz
    rw [hz] at ho hd hp
    have : op0 = .add := Op.code_eq_zero.mp (by simpa using ho.symm)
    subst this
    simp [Instr.wellFormed, ← hd, ← hp] at h
  rw [decodeWord, if_neg h0, hn]
  simp [opAt, ho, hd, hp]

/-- Layout EXPR2 of 30_encoding.md R62, decoded from its word. -/
theorem decodeWord_expr2 (op0 op1 : Op) (dm1 : BitVec 4) (pad : BitVec 21) :
    decodeWord (1#3 ++ op0.code ++ op1.code ++ dm1 ++ pad) =
      .expr2 op0 op1 dm1 pad := by
  have hn : BitVec.extractLsb' 29 3 (1#3 ++ op0.code ++ op1.code ++ dm1 ++ pad : Word32) = 1 := by
    simp [extract_append_high (a := 11) (b := 21),
    extract_append_high (a := 7) (b := 4),
    extract_append_high (a := 3) (b := 2),
    extract_append_high (a := 5) (b := 2)]
  rw [decodeWord, if_neg (word_ne_zero 29 3 (by rw [hn]; decide)), hn]
  simp [opAt, extract_append_high (a := 11) (b := 21),
    extract_append_high (a := 7) (b := 4),
    extract_append_high (a := 5) (b := 2),
    extract_append_low (a := 11) (b := 21),
    extract_append_low (a := 7) (b := 4),
    extract_append_low (a := 3) (b := 2),
    extract_append_low (a := 5) (b := 2)]

/-- Layout EXPR3 of 30_encoding.md R62, decoded from its word. -/
theorem decodeWord_expr3 (op0 op1 op2 : Op) (dm1 : BitVec 4) (pad : BitVec 19) :
    decodeWord (2#3 ++ op0.code ++ op1.code ++ op2.code ++ dm1 ++ pad) =
      .expr3 op0 op1 op2 dm1 pad := by
  have hn : BitVec.extractLsb' 29 3 (2#3 ++ op0.code ++ op1.code ++ op2.code ++ dm1 ++ pad : Word32) = 2 := by
    simp [extract_append_high (a := 13) (b := 19),
    extract_append_high (a := 9) (b := 4),
    extract_append_high (a := 3) (b := 2),
    extract_append_high (a := 5) (b := 2),
    extract_append_high (a := 7) (b := 2)]
  rw [decodeWord, if_neg (word_ne_zero 29 3 (by rw [hn]; decide)), hn]
  simp [opAt, extract_append_high (a := 13) (b := 19),
    extract_append_high (a := 9) (b := 4),
    extract_append_high (a := 5) (b := 2),
    extract_append_high (a := 7) (b := 2),
    extract_append_low (a := 13) (b := 19),
    extract_append_low (a := 9) (b := 4),
    extract_append_low (a := 3) (b := 2),
    extract_append_low (a := 5) (b := 2),
    extract_append_low (a := 7) (b := 2)]

/-- Layout EXPR4 of 30_encoding.md R62, decoded from its word. -/
theorem decodeWord_expr4 (op0 op1 op2 op3 : Op) (dm1 : BitVec 4) (pad : BitVec 17) :
    decodeWord (3#3 ++ op0.code ++ op1.code ++ op2.code ++ op3.code ++ dm1 ++ pad) =
      .expr4 op0 op1 op2 op3 dm1 pad := by
  have hn : BitVec.extractLsb' 29 3 (3#3 ++ op0.code ++ op1.code ++ op2.code ++ op3.code ++ dm1 ++ pad : Word32) = 3 := by
    simp [extract_append_high (a := 15) (b := 17),
    extract_append_high (a := 11) (b := 4),
    extract_append_high (a := 3) (b := 2),
    extract_append_high (a := 5) (b := 2),
    extract_append_high (a := 7) (b := 2),
    extract_append_high (a := 9) (b := 2)]
  rw [decodeWord, if_neg (word_ne_zero 29 3 (by rw [hn]; decide)), hn]
  simp [opAt, extract_append_high (a := 15) (b := 17),
    extract_append_high (a := 11) (b := 4),
    extract_append_high (a := 5) (b := 2),
    extract_append_high (a := 7) (b := 2),
    extract_append_high (a := 9) (b := 2),
    extract_append_low (a := 15) (b := 17),
    extract_append_low (a := 11) (b := 4),
    extract_append_low (a := 3) (b := 2),
    extract_append_low (a := 5) (b := 2),
    extract_append_low (a := 7) (b := 2),
    extract_append_low (a := 9) (b := 2)]

/-- Layout EXPR5 of 30_encoding.md R62, decoded from its word. -/
theorem decodeWord_expr5 (op0 op1 op2 op3 op4 : Op) (dm1 : BitVec 4) (pad : BitVec 15) :
    decodeWord (4#3 ++ op0.code ++ op1.code ++ op2.code ++ op3.code ++ op4.code ++ dm1 ++ pad) =
      .expr5 op0 op1 op2 op3 op4 dm1 pad := by
  have hn : BitVec.extractLsb' 29 3 (4#3 ++ op0.code ++ op1.code ++ op2.code ++ op3.code ++ op4.code ++ dm1 ++ pad : Word32) = 4 := by
    simp [extract_append_high (a := 17) (b := 15),
    extract_append_high (a := 13) (b := 4),
    extract_append_high (a := 3) (b := 2),
    extract_append_high (a := 5) (b := 2),
    extract_append_high (a := 7) (b := 2),
    extract_append_high (a := 9) (b := 2),
    extract_append_high (a := 11) (b := 2)]
  rw [decodeWord, if_neg (word_ne_zero 29 3 (by rw [hn]; decide)), hn]
  simp [opAt, extract_append_high (a := 17) (b := 15),
    extract_append_high (a := 13) (b := 4),
    extract_append_high (a := 5) (b := 2),
    extract_append_high (a := 7) (b := 2),
    extract_append_high (a := 9) (b := 2),
    extract_append_high (a := 11) (b := 2),
    extract_append_low (a := 17) (b := 15),
    extract_append_low (a := 13) (b := 4),
    extract_append_low (a := 3) (b := 2),
    extract_append_low (a := 5) (b := 2),
    extract_append_low (a := 7) (b := 2),
    extract_append_low (a := 9) (b := 2),
    extract_append_low (a := 11) (b := 2)]

/-- Layout EXPR6 of 30_encoding.md R62, decoded from its word. -/
theorem decodeWord_expr6 (op0 op1 op2 op3 op4 op5 : Op) (dm1 : BitVec 4) (pad : BitVec 13) :
    decodeWord (5#3 ++ op0.code ++ op1.code ++ op2.code ++ op3.code ++ op4.code ++ op5.code ++ dm1 ++ pad) =
      .expr6 op0 op1 op2 op3 op4 op5 dm1 pad := by
  have hn : BitVec.extractLsb' 29 3 (5#3 ++ op0.code ++ op1.code ++ op2.code ++ op3.code ++ op4.code ++ op5.code ++ dm1 ++ pad : Word32) = 5 := by
    simp [extract_append_high (a := 19) (b := 13),
    extract_append_high (a := 15) (b := 4),
    extract_append_high (a := 3) (b := 2),
    extract_append_high (a := 5) (b := 2),
    extract_append_high (a := 7) (b := 2),
    extract_append_high (a := 9) (b := 2),
    extract_append_high (a := 11) (b := 2),
    extract_append_high (a := 13) (b := 2)]
  rw [decodeWord, if_neg (word_ne_zero 29 3 (by rw [hn]; decide)), hn]
  simp [opAt, extract_append_high (a := 19) (b := 13),
    extract_append_high (a := 15) (b := 4),
    extract_append_high (a := 5) (b := 2),
    extract_append_high (a := 7) (b := 2),
    extract_append_high (a := 9) (b := 2),
    extract_append_high (a := 11) (b := 2),
    extract_append_high (a := 13) (b := 2),
    extract_append_low (a := 19) (b := 13),
    extract_append_low (a := 15) (b := 4),
    extract_append_low (a := 3) (b := 2),
    extract_append_low (a := 5) (b := 2),
    extract_append_low (a := 7) (b := 2),
    extract_append_low (a := 9) (b := 2),
    extract_append_low (a := 11) (b := 2),
    extract_append_low (a := 13) (b := 2)]

/-- Layout EXPR7 of 30_encoding.md R62, decoded from its word. -/
theorem decodeWord_expr7 (op0 op1 op2 op3 op4 op5 op6 : Op) (dm1 : BitVec 4) (pad : BitVec 11) :
    decodeWord (6#3 ++ op0.code ++ op1.code ++ op2.code ++ op3.code ++ op4.code ++ op5.code ++ op6.code ++ dm1 ++ pad) =
      .expr7 op0 op1 op2 op3 op4 op5 op6 dm1 pad := by
  have hn : BitVec.extractLsb' 29 3 (6#3 ++ op0.code ++ op1.code ++ op2.code ++ op3.code ++ op4.code ++ op5.code ++ op6.code ++ dm1 ++ pad : Word32) = 6 := by
    simp [extract_append_high (a := 21) (b := 11),
    extract_append_high (a := 17) (b := 4),
    extract_append_high (a := 3) (b := 2),
    extract_append_high (a := 5) (b := 2),
    extract_append_high (a := 7) (b := 2),
    extract_append_high (a := 9) (b := 2),
    extract_append_high (a := 11) (b := 2),
    extract_append_high (a := 13) (b := 2),
    extract_append_high (a := 15) (b := 2)]
  rw [decodeWord, if_neg (word_ne_zero 29 3 (by rw [hn]; decide)), hn]
  simp [opAt, extract_append_high (a := 21) (b := 11),
    extract_append_high (a := 17) (b := 4),
    extract_append_high (a := 5) (b := 2),
    extract_append_high (a := 7) (b := 2),
    extract_append_high (a := 9) (b := 2),
    extract_append_high (a := 11) (b := 2),
    extract_append_high (a := 13) (b := 2),
    extract_append_high (a := 15) (b := 2),
    extract_append_low (a := 21) (b := 11),
    extract_append_low (a := 17) (b := 4),
    extract_append_low (a := 3) (b := 2),
    extract_append_low (a := 5) (b := 2),
    extract_append_low (a := 7) (b := 2),
    extract_append_low (a := 9) (b := 2),
    extract_append_low (a := 11) (b := 2),
    extract_append_low (a := 13) (b := 2),
    extract_append_low (a := 15) (b := 2)]

/-- Layout EXPR8 of 30_encoding.md R62, decoded from its word. -/
theorem decodeWord_expr8 (op0 op1 op2 op3 op4 op5 op6 op7 : Op) (dm1 : BitVec 4) (pad : BitVec 9) :
    decodeWord (7#3 ++ op0.code ++ op1.code ++ op2.code ++ op3.code ++ op4.code ++ op5.code ++ op6.code ++ op7.code ++ dm1 ++ pad) =
      .expr8 op0 op1 op2 op3 op4 op5 op6 op7 dm1 pad := by
  have hn : BitVec.extractLsb' 29 3 (7#3 ++ op0.code ++ op1.code ++ op2.code ++ op3.code ++ op4.code ++ op5.code ++ op6.code ++ op7.code ++ dm1 ++ pad : Word32) = 7 := by
    simp [extract_append_high (a := 23) (b := 9),
    extract_append_high (a := 19) (b := 4),
    extract_append_high (a := 3) (b := 2),
    extract_append_high (a := 5) (b := 2),
    extract_append_high (a := 7) (b := 2),
    extract_append_high (a := 9) (b := 2),
    extract_append_high (a := 11) (b := 2),
    extract_append_high (a := 13) (b := 2),
    extract_append_high (a := 15) (b := 2),
    extract_append_high (a := 17) (b := 2)]
  rw [decodeWord, if_neg (word_ne_zero 29 3 (by rw [hn]; decide)), hn]
  simp [opAt, extract_append_high (a := 23) (b := 9),
    extract_append_high (a := 19) (b := 4),
    extract_append_high (a := 5) (b := 2),
    extract_append_high (a := 7) (b := 2),
    extract_append_high (a := 9) (b := 2),
    extract_append_high (a := 11) (b := 2),
    extract_append_high (a := 13) (b := 2),
    extract_append_high (a := 15) (b := 2),
    extract_append_high (a := 17) (b := 2),
    extract_append_low (a := 23) (b := 9),
    extract_append_low (a := 19) (b := 4),
    extract_append_low (a := 3) (b := 2),
    extract_append_low (a := 5) (b := 2),
    extract_append_low (a := 7) (b := 2),
    extract_append_low (a := 9) (b := 2),
    extract_append_low (a := 11) (b := 2),
    extract_append_low (a := 13) (b := 2),
    extract_append_low (a := 15) (b := 2),
    extract_append_low (a := 17) (b := 2)]

end Sys2Proof
end

