-- ==== Sys2Proof/Laws/Eval.lean ====
section
/-! SUPPORT. The frame of the evaluation commands, check by check and phase by phase (43_evaluators.md R140). -/

namespace Sys2Proof.Machine

/-- Every evaluation command is the shared frame. -/
@[simp] theorem exec_evalInstr (mode : EvalMode) (s : State) : exec (evalInstr mode) s = finish (eval mode s) := by
  cases mode <;> rfl

/-- Every operator instruction is the reducer's operation at its site. -/
@[simp] theorem exec_operatorInstr (op : Op) (site : AluSite) (s : State) :
    exec (operatorInstr op site) s = finish (applyOp op site s) := by
  cases op <;> rfl

theorem eval_noInstruction {mode : EvalMode} {s : State} (h : s.ir.valid = false) :
    eval mode s = raise .noInstruction (clearResult s) := by
  simp [eval, h]

theorem eval_unsupported {s : State} (h : s.ir.valid = true) (hd : 16 % irD s.ir ≠ 0) :
    eval .p2 s = raise .unsupportedDimension (clearResult s) := by
  simp [eval, h, hd]

/-- An evaluation that passes its checks runs its body. -/
theorem eval_checked {mode : EvalMode} {s : State} (h : s.ir.valid = true) (hd : mode = .p2 → 16 % irD s.ir = 0) :
    eval mode s = evalBody mode (clearResult s) := by
  have : ¬(mode = .p2 ∧ 16 % irD s.ir ≠ 0) := fun hm => hm.2 (hd hm.1)
  simp only [eval, h, this, if_false, Bool.true_eq_false]

/-- Everything an evaluation can be. -/
theorem eval_cases (mode : EvalMode) (s : State) :
    (s.ir.valid = false ∧ eval mode s = raise .noInstruction (clearResult s)) ∨
      (s.ir.valid = true ∧ mode = .p2 ∧ 16 % irD s.ir ≠ 0 ∧
        eval mode s = raise .unsupportedDimension (clearResult s)) ∨
      (s.ir.valid = true ∧ (mode = .p2 → 16 % irD s.ir = 0) ∧ eval mode s = evalBody mode (clearResult s)) := by
  by_cases h : s.ir.valid = false
  · exact .inl ⟨h, eval_noInstruction h⟩
  · have h' : s.ir.valid = true := by simpa using h
    by_cases hm : mode = .p2 ∧ 16 % irD s.ir ≠ 0
    · obtain ⟨rfl, hd⟩ := hm
      exact .inr (.inl ⟨h', rfl, hd, eval_unsupported h' hd⟩)
    · have hd : mode = .p2 → 16 % irD s.ir = 0 := fun e => by
        by_contra hc
        exact hm ⟨e, hc⟩
      exact .inr (.inr ⟨h', hd, eval_checked h' hd⟩)

@[simp] theorem pass1From_zero (s : State) : pass1From 0 s = .ok s := rfl

/-- The scan goes on at an operator and stops at the end of the list (43_evaluators.md R144). -/
theorem pass1From_succ {steps : Nat} {s : State} (h : s.cur.val < s.wlen.val) :
    pass1From (steps + 1) s =
      andThen (applyOp (Op.ofCode (s.wops[s.cur.val]'(by omega))) .pass1 s) (pass1From steps) := by
  rw [pass1From, dif_pos h]

theorem pass1From_done {steps : Nat} {s : State} (h : s.wlen.val ≤ s.cur.val) : pass1From steps s = .ok s := by
  cases steps with
  | zero => rfl
  | succ n => rw [pass1From, dif_neg (by omega)]

@[simp] theorem foldFrom_zero (j : Nat) (s : State) : foldFrom 0 j s = .ok s := rfl

theorem foldFrom_succ (left j : Nat) (s : State) :
    foldFrom (left + 1) j s =
      andThen (foldWith (alu (Op.ofCode s.wops[Fin.ofNat 8 j])) (Fin.ofNat 8 j) s) (foldFrom left (j + 1)) := by
  rw [foldFrom, applyOp_fold]

end Sys2Proof.Machine
end

