-- ==== Sys2Proof/Laws/PerInstr.lean ====
section
/-! SUPPORT. The family RoundTrip: decoding the encoding of a well-formed instruction gives it back, one lemma per
constructor of `Instr`. -/

namespace Sys2Proof.Laws.RoundTrip

/-- Decoding inverts encoding at `i`, on well-formed instructions (30_encoding.md). -/
def Statement (i : Instr) : Prop := i.wellFormed = true → decode (encode i) = .ok i

theorem dec (w : Word32) : Statement (.dec w) := fun _ => rfl

theorem evalP2 : Statement (.evalP2) := fun _ => rfl

theorem evalGen : Statement (.evalGen) := fun _ => rfl

theorem evalPrec : Statement (.evalPrec) := fun _ => rfl

theorem enc (n d : BitVec 8) (tok : Vector Token 8) : Statement (.enc n d tok) := fun _ => rfl

theorem cmdReserved5 : Statement (.cmdReserved5) := fun _ => rfl

theorem cmdReserved6 : Statement (.cmdReserved6) := fun _ => rfl

theorem cmdReserved7 : Statement (.cmdReserved7) := fun _ => rfl

theorem zeroWord : Statement (.zeroWord) := fun _ => rfl

theorem expr1 (op0 : Op) (dm1 : BitVec 4) (pad : BitVec 23) :
    Statement (.expr1 op0 dm1 pad) := by
  intro hwf
  exact congrArg Except.ok (decodeWord_expr1 op0 dm1 pad hwf)

theorem expr2 (op0 op1 : Op) (dm1 : BitVec 4) (pad : BitVec 21) :
    Statement (.expr2 op0 op1 dm1 pad) := by
  intro hwf
  exact congrArg Except.ok (decodeWord_expr2 op0 op1 dm1 pad)

theorem expr3 (op0 op1 op2 : Op) (dm1 : BitVec 4) (pad : BitVec 19) :
    Statement (.expr3 op0 op1 op2 dm1 pad) := by
  intro hwf
  exact congrArg Except.ok (decodeWord_expr3 op0 op1 op2 dm1 pad)

theorem expr4 (op0 op1 op2 op3 : Op) (dm1 : BitVec 4) (pad : BitVec 17) :
    Statement (.expr4 op0 op1 op2 op3 dm1 pad) := by
  intro hwf
  exact congrArg Except.ok (decodeWord_expr4 op0 op1 op2 op3 dm1 pad)

theorem expr5 (op0 op1 op2 op3 op4 : Op) (dm1 : BitVec 4) (pad : BitVec 15) :
    Statement (.expr5 op0 op1 op2 op3 op4 dm1 pad) := by
  intro hwf
  exact congrArg Except.ok (decodeWord_expr5 op0 op1 op2 op3 op4 dm1 pad)

theorem expr6 (op0 op1 op2 op3 op4 op5 : Op) (dm1 : BitVec 4) (pad : BitVec 13) :
    Statement (.expr6 op0 op1 op2 op3 op4 op5 dm1 pad) := by
  intro hwf
  exact congrArg Except.ok (decodeWord_expr6 op0 op1 op2 op3 op4 op5 dm1 pad)

theorem expr7 (op0 op1 op2 op3 op4 op5 op6 : Op) (dm1 : BitVec 4) (pad : BitVec 11) :
    Statement (.expr7 op0 op1 op2 op3 op4 op5 op6 dm1 pad) := by
  intro hwf
  exact congrArg Except.ok (decodeWord_expr7 op0 op1 op2 op3 op4 op5 op6 dm1 pad)

theorem expr8 (op0 op1 op2 op3 op4 op5 op6 op7 : Op) (dm1 : BitVec 4) (pad : BitVec 9) :
    Statement (.expr8 op0 op1 op2 op3 op4 op5 op6 op7 dm1 pad) := by
  intro hwf
  exact congrArg Except.ok (decodeWord_expr8 op0 op1 op2 op3 op4 op5 op6 op7 dm1 pad)

theorem add (site : AluSite) : Statement (.add site) := fun _ => rfl

theorem sub (site : AluSite) : Statement (.sub site) := fun _ => rfl

theorem mul (site : AluSite) : Statement (.mul site) := fun _ => rfl

theorem div (site : AluSite) : Statement (.div site) := fun _ => rfl

theorem tokAdd (i : Fin 8) : Statement (.tokAdd i) := fun _ => rfl

theorem tokSub (i : Fin 8) : Statement (.tokSub i) := fun _ => rfl

theorem tokMul (i : Fin 8) : Statement (.tokMul i) := fun _ => rfl

theorem tokDiv (i : Fin 8) : Statement (.tokDiv i) := fun _ => rfl

end Sys2Proof.Laws.RoundTrip
end

