-- ==== Sys2Proof/Tests/Slice0.lean ====
section
/-! SUPPORT. Small tests, their expected values taken from spec/95_test_vectors.md or worked by hand from the rules,
and a witness for the hypotheses of every statement. -/

namespace Sys2Proof.Tests

open Sys2Proof.Machine

/-- The state a step answers, if it answers one. -/
def after (r : Host.Outcome State Fault Refusal) : Option State :=
  match r with
  | .next t => some t
  | .fault _ => none
  | .refused _ => none

/-- The state after reset over a source of chunks. -/
def onSource (chunks : List Chunk) : State := { State.reset with src := ⟨chunks.map .ok, .ended, 0⟩ }

/-- `onSource chunks` with the Instruction of a word loaded (as DEC loads it). -/
def loaded (w : Word32) (chunks : List Chunk) : State := loadIr (decIr w) (onSource chunks)

/-- What an evaluation shows: `STATUS`, `RES`, `RES_VALID`, `RDCNT`, the read position. -/
def shown (r : Host.Outcome State Fault Refusal) : Option (Nat × Int × Bool × Nat × Nat) :=
  (after r).map fun t => (t.status.toNat, t.res.toInt, t.resValid, t.rdcnt.toNat, t.src.pos)

/-- Tokens of an ENC. -/
def toks (a b c : Token) : Vector Token 8 := #v[a, b, c, 0, 0, 0, 0, 0]

/-! ## Well-formedness -/

/-- 30_encoding.md R67: the all-zero EXPR1 is the zero word's, not EXPR1's. -/
theorem test_zeroExpr1_illFormed : (Instr.expr1 .add 0 0).wellFormed = false := by decide

theorem test_nonCanonicalExpr1_wellFormed : (Instr.expr1 .add 0 1).wellFormed = true := by decide

/-! ## Decoding, from words written bit by bit -/

/-- 95_test_vectors.md 2.3, `DEC 0x1FFFFFFF`. -/
theorem test_decode_expr1 : decodeWord 0b000_11_1111_11111111111111111111111#32 = .expr1 .div 15 0x7FFFFF := by decide

theorem test_decode_expr2 : decodeWord 0b001_10_00_0100_000000000000000000000#32 = .expr2 .mul .add 4 0 := by decide

theorem test_decode_expr3 : decodeWord 0b010_11_01_10_0101_0100000000000000000#32 = .expr3 .div .sub .mul 5 0x20000 := by
  decide

theorem test_decode_expr4 : decodeWord 0b011_11_01_01_10_1000_00000000000000000#32 = .expr4 .div .sub .sub .mul 8 0 := by
  decide

theorem test_decode_expr5 : decodeWord 0x9E3779B9 = .expr5 .div .div .add .sub .mul 14 0x79B9 := by decide

theorem test_decode_expr6 :
    decodeWord 0b101_00_01_10_11_00_01_0111_0000000000001#32 = .expr6 .add .sub .mul .div .add .sub 7 1 := by decide

theorem test_decode_expr7 : decodeWord 0xC3635800 = .expr7 .add .sub .mul .div .add .sub .mul 11 0 := by decide

theorem test_decode_expr8 :
    decodeWord 0b111_00_01_10_11_01_00_11_10_1001_000000000#32 = .expr8 .add .sub .mul .div .sub .add .div .mul 9 0 := by
  decide

theorem test_decode_zeroWord : decodeWord 0 = .zeroWord := by decide

/-- 30_encoding.md R68 and R69, all eight command codes. -/
theorem test_decode_commands :
    decodePacket ⟨0, 0x30800000, 9, 9, noTokens⟩ = .dec 0x30800000 ∧ decodePacket (plainPacket 1) = .evalP2 ∧
      decodePacket (plainPacket 2) = .evalGen ∧ decodePacket (plainPacket 3) = .evalPrec ∧
      decodePacket ⟨4, 0, 2, 5, toks 0x2A 0x2B 0⟩ = .enc 2 5 (toks 0x2A 0x2B 0) ∧
      decodePacket (plainPacket 5) = .cmdReserved5 ∧ decodePacket (plainPacket 6) = .cmdReserved6 ∧
      decodePacket (plainPacket 7) = .cmdReserved7 := by decide

/-- 30_encoding.md R65. -/
theorem test_decode_operators :
    decode (.operator 0b00 .pass1) = .ok (.add .pass1) ∧ decode (.operator 0b01 (.fold 1)) = .ok (.sub (.fold 1)) ∧
      decode (.operator 0b10 .pass1) = .ok (.mul .pass1) ∧ decode (.operator 0b11 (.fold 7)) = .ok (.div (.fold 7)) :=
  ⟨rfl, rfl, rfl, rfl⟩

/-- 30_encoding.md R71. -/
theorem test_decode_tokens :
    decode (.token 0b00101011 0) = .ok (.tokAdd 0) ∧ decode (.token 0b00101101 1) = .ok (.tokSub 1) ∧
      decode (.token 0b00101010 2) = .ok (.tokMul 2) ∧ decode (.token 0b00101111 7) = .ok (.tokDiv 7) ∧
      decode (.token 0x78 0) = .error (.unknownToken 0x78) := ⟨rfl, rfl, rfl, rfl, rfl⟩

theorem test_decodeTableWord :
    decodeTableWord 32 0xE0000000 = some (.expr8 .add .add .add .add .add .add .add .add 0 0) ∧
      decodeTableWord 8 3 = some .evalPrec ∧ decodeTableWord 8 0x2F = some (.tokDiv 0) ∧
      decodeTableWord 8 0x30 = none ∧ decodeTableWord 2 3 = some (.div (.fold 0)) := by decide

/-! ## DEC and ENC -/

/-- 95_test_vectors.md 2.3, `DEC 0x9E3779B9`. -/
theorem test_dec_fields :
    (after (exec (.dec 0x9E3779B9) State.reset)).map (fun t => (t.ir, t.status)) =
      some (⟨true, 4, 14, #v[3, 3, 0, 1, 2, 0, 0, 0]⟩, 0) := by decide

/-- 40_codec.md R82: `DEC 0` over a valid `IR` leaves it valid. -/
theorem test_dec_zero :
    (after (exec (.dec 0) (loaded 0x30800000 []))).map (fun t => (t.ir, t.status)) =
      some (⟨true, 1, 4, #v[2, 0, 0, 0, 0, 0, 0, 0]⟩, 2) := by decide

theorem test_zeroWord :
    (after (exec .zeroWord (loaded 0x30800000 []))).map (fun t => (t.ir.valid, t.status)) = some (true, 2) := by decide

/-- 95_test_vectors.md 2.1, `ENC 3 7 +-*`. -/
theorem test_enc_word :
    (after (exec (.enc 3 7 (toks 0x2B 0x2D 0x2A)) State.reset)).map (fun t => (t.word, t.ir, t.status)) =
      some (0x43300000, ⟨true, 2, 6, #v[0, 1, 2, 0, 0, 0, 0, 0]⟩, 0) := by decide

/-- 95_test_vectors.md 2.2, `ENC 2 5` with tokens 2B 78: the second token is unknown. -/
theorem test_enc_badToken :
    (after (exec (.enc 2 5 (toks 0x2B 0x78 0)) { loaded 0x30800000 [] with word := 0xDEADBEEF })).map
      (fun t => (t.word, t.ir.nm1, t.status)) = some (0, 1, 1) := by decide

theorem test_expr3_loads :
    (after (exec (.expr3 .add .sub .mul 6 5) State.reset)).map (fun t => (t.ir, t.status)) =
      some (⟨true, 2, 6, #v[0, 1, 2, 0, 0, 0, 0, 0]⟩, 0) := by decide

theorem test_tokDiv_stages : (after (exec (.tokDiv 2) State.reset)).map (fun t => t.encC[2]) = some 3 := by decide

/-- 30_encoding.md R69. -/
theorem test_reserved : (after (exec .cmdReserved6 (loaded 0x30800000 []))).map (fun t => (t.status, t.ir.valid)) =
    some (8, true) := by decide

/-! ## The evaluators -/

/-- 95_test_vectors.md 1.1, scenario A. -/
theorem test_evalP2_scenarioA : shown (exec .evalP2 (loaded 0x01800000 [0x1200])) = some (0, 3, true, 1, 1) := by decide

/-- 95_test_vectors.md E2. -/
theorem test_evalP2_unsupported : shown (exec .evalP2 (loaded 0x24800000 [0x0C48])) = some (4, 0, false, 0, 0) := by
  decide

/-- 95_test_vectors.md section 6, the straddling variant: `((3*2)+1)*17`. -/
theorem test_evalGen_straddle :
    shown (exec .evalGen (loaded 0x51200000 [0x1883, 0x1000])) = some (0, 119, true, 2, 2) := by decide

/-- 95_test_vectors.md E7: `(1-5)/3` rounds toward zero. -/
theorem test_evalGen_negativeDividend :
    shown (exec .evalGen (loaded 0x2E600000 [0x1530])) = some (0, -1, true, 1, 1) := by decide

/-- 95_test_vectors.md E8, the longest pass-1 trace. -/
theorem test_evalPrec_E8 :
    shown (exec .evalPrec (loaded 0xE4E52800 [0x1883, 0x14F8, 0xACF8])) = some (0, 1773, true, 3, 3) := by decide

/-- 95_test_vectors.md E5: a chain of Mul and Div leaves nothing to fold. -/
theorem test_evalPrec_chain : shown (exec .evalPrec (loaded 0x57180000 [0x2345])) = some (0, 5, true, 1, 1) := by decide

/-- 95_test_vectors.md E16: `65535^4` overflows after all four reads. -/
theorem test_mul_overflow :
    shown (exec .evalGen (loaded 0x55780000 [0xFFFF, 0xFFFF, 0xFFFF, 0xFFFF])) = some (6, 0, false, 4, 4) := by decide

/-- 95_test_vectors.md E28: the missing chunk outranks the division by zero. -/
theorem test_div_readFaultFirst :
    shown (exec .evalPrec (loaded 0x38E00000 [0x0500])) = some (3, 0, false, 1, 1) := by decide

/-- 43_evaluators.md R145: `ACC <- 5 + 3` at index 0. -/
theorem test_add_fold :
    (after (exec (.add (.fold 0)) { State.reset with wlen := 1, acc := 5, val := #v[0, 3, 0, 0, 0, 0, 0, 0, 0] })).map
      (fun t => t.acc) = some 8 := by decide

/-- 43_evaluators.md R144's example: `VAL = [1, 17, 4]`, `WOPS = [Add, Mul]`, at `CUR = 1`. -/
theorem test_mul_pass1 :
    (after (exec (.mul .pass1) { State.reset with
      wlen := 2, cur := 1, wops := #v[0, 2, 0, 0, 0, 0, 0, 0], val := #v[1, 17, 4, 0, 0, 0, 0, 0, 0] })).map
      (fun t => (t.val[0], t.val[1], t.wops[0], t.wlen, t.cur)) = some (1, 68, 0, 1, 1) := by decide

/-- 43_evaluators.md R144: a Sub is skipped over. -/
theorem test_sub_pass1 :
    (after (exec (.sub .pass1) { State.reset with wlen := 2, cur := 1 })).map (fun t => t.cur) = some 2 := by decide

/-! ## Steps -/

/-- 95_test_vectors.md P4, its first step: EVAL_GEN from reset. -/
theorem test_step_noInstruction :
    shown (step { onSource [0xC000] with inbox := [.command (plainPacket 2)] }) = some (7, 0, false, 0, 0) := by decide

/-- Each opcode-table word placed for the next step is run by it from reset. -/
theorem test_withFetchWord_runs :
    (after (step (State.reset.withFetchWord 32 0x30800000))).map (fun t => t.ir.dm1) = some 4 ∧
      (after (step (State.reset.withFetchWord 8 5))).map (fun t => t.status) = some 8 ∧
      (after (step (State.reset.withFetchWord 8 0x2A))).map (fun t => t.encC[0]) = some 2 ∧
      (after (step (State.reset.withFetchWord 2 1))).map (fun t => (t.status, t.res)) = some (0, 0) := by decide

/-! ## Witnesses: the hypotheses of each statement, met together -/

/-- A state with a command issued and a reset after it. -/
def issued : State := { State.reset with inbox := [.command (plainPacket 1), .reset] }

theorem witness_StepRunsIssuedCommand : issued.inbox = .command (plainPacket 1) :: [.reset] := rfl

theorem witness_ResetActionRestoresRegisters :
    ({ loaded 0x30800000 [1] with inbox := [.reset] }).inbox = .reset :: [] := rfl

theorem witness_SourceAndWaitLeaveBlockAlone :
    ({ State.reset with inbox := [.present ⟨[.ok 1], .ended, 0⟩] }).inbox = .present ⟨[.ok 1], .ended, 0⟩ :: [] ∧
      State.reset.inbox = [] := ⟨rfl, rfl⟩

theorem witness_EveryInstructionKeepsInvariant :
    ∃ t, (loaded 0x24800000 [0x0C48]).Inv ∧ exec .evalPrec (loaded 0x24800000 [0x0C48]) = .next t :=
  ⟨_, by decide, rfl⟩

theorem witness_EveryStepKeepsInvariant : ∃ t, issued.Inv ∧ step issued = .next t := ⟨_, by decide, rfl⟩

theorem witness_OnlySilentSourceStops :
    exec .evalGen { loaded 0x24800000 [] with src := ⟨[], .silent, 0⟩ } = .fault .sourceSilent := rfl

theorem witness_DecodeInvertsEncode : (Instr.expr1 .add 0 1).wellFormed = true ∧ Instr.zeroWord.wellFormed = true := by
  decide

theorem witness_OtherTokensAreRejected :
    (0x2C : Token).toNat ∉ [0x2A, 0x2B, 0x2D, 0x2F] ∧ (0x00 : Token).toNat ∉ [0x2A, 0x2B, 0x2D, 0x2F] := by decide

theorem witness_DecLoadsWordFields : (1 : Word32) ≠ 0 ∧ (0xFFFFFFFF : Word32) ≠ 0 := by decide

theorem witness_DecAgreesWithShiftSequence : (0xC6F2E000 : Word32) ≠ 0 := by decide

theorem witness_WordLayoutsLoadInstruction : (Instr.expr1 .add 0 1).wellFormed = true := by decide

theorem witness_DecIgnoresPadding :
    (0x5B2A0000 : Word32) ≠ 0 ∧ (0x5B280000 : Word32) ≠ 0 ∧
      (0x5B2A0000 : Word32).toNat / 2 ^ (23 - 2 * ((0x5B280000 : Word32).toNat / 2 ^ 29)) =
        (0x5B280000 : Word32).toNat / 2 ^ (23 - 2 * ((0x5B280000 : Word32).toNat / 2 ^ 29)) := by decide

theorem witness_EncBuildsWordAndInstruction :
    1 ≤ (8 : BitVec 8).toNat ∧ (8 : BitVec 8).toNat ≤ 8 ∧ 1 ≤ (16 : BitVec 8).toNat ∧ (16 : BitVec 8).toNat ≤ 16 ∧ ∀ i : Fin 8, i.val < (8 : BitVec 8).toNat →
      tokOp (#v[0x2F, 0x2F, 0x2F, 0x2F, 0x2F, 0x2F, 0x2F, 0x2F] : Vector Token 8)[i] = some .div := by decide

theorem witness_EncRejectsCountsOutOfRange :
    (0 : BitVec 8).toNat < 1 ∧ 8 < (9 : BitVec 8).toNat ∧ 16 < (17 : BitVec 8).toNat := by decide

theorem witness_EncRejectsUnknownToken :
    1 ≤ (2 : BitVec 8).toNat ∧ (2 : BitVec 8).toNat ≤ 8 ∧ 1 ≤ (16 : BitVec 8).toNat ∧ (16 : BitVec 8).toNat ≤ 16 ∧
      ∃ i : Fin 8, i.val < (2 : BitVec 8).toNat ∧ tokOp (toks 0x2B 0x78 0)[i] = none := by decide

theorem witness_EncThenDecRestoresInstruction :
    (1 ≤ (1 : BitVec 8).toNat ∧ (1 : BitVec 8).toNat ≤ 8 ∧ (1 : BitVec 8).toNat ≤ 16) ∧
    (1 ≤ (3 : BitVec 8).toNat ∧ (3 : BitVec 8).toNat ≤ 8 ∧ (3 : BitVec 8).toNat ≤ 16) ∧
    (∀ i : Fin 8, i.val < (1 : BitVec 8).toNat → tokOp (toks 0x2B 0 0)[i] ≠ none) ∧
      ∀ i : Fin 8, i.val < (3 : BitVec 8).toNat → tokOp (toks 0x2B 0x2D 0x2A)[i] ≠ none := by decide

theorem witness_DecThenEncClearsPadding :
    (0x5B2A0000 : Word32) ≠ 0 ∧ irN (decIr 0x5B2A0000) = (3 : BitVec 8).toNat ∧
      irD (decIr 0x5B2A0000) = (6 : BitVec 8).toNat ∧
      ∀ i : Fin 8, i.val < (3 : BitVec 8).toNat →
        tokOp (toks 0x2F 0x2D 0x2A)[i] = some (Op.ofCode (decIr 0x5B2A0000).op[i]) := by decide

theorem witness_CodecFrame :
    ∃ t, isEval (.tokAdd 0) = false ∧ isOperator (.tokAdd 0) = false ∧ exec (.tokAdd 0) State.reset = .next t :=
  ⟨_, rfl, rfl, rfl⟩

theorem witness_CommandsOverwriteStatus : isCommand .evalPrec = true ∧ isCommand (.dec 0) = true := ⟨rfl, rfl⟩

/-- A state about to fold at index 7, the last, with `a` in `ACC` and `b` in `VAL[8]`. -/
def folding (a b : I64) : State :=
  { State.reset with wlen := 8, acc := a, val := #v[0, 0, 0, 0, 0, 0, 0, 0, b] }

/-- Both clauses, at `2^63 - 1` and just past it (95_test_vectors.md section 4). -/
theorem witness_AddFoldsExactSum :
    (7 : Fin 8).val < (folding 9223372036854710272 65535).wlen.val ∧
      (folding 9223372036854710272 65535).acc.toInt + ((folding 9223372036854710272 65535).val[8]).toInt = 2 ^ 63 - 1 ∧
      (folding 9223372036854710272 65536).acc.toInt + ((folding 9223372036854710272 65536).val[8]).toInt = 2 ^ 63 := by
  decide

theorem witness_SubFoldsExactDifference :
    (7 : Fin 8).val < (folding 0x8000000000000000 0).wlen.val ∧
      (folding 0x8000000000000000 0).acc.toInt - ((folding 0x8000000000000000 0).val[8]).toInt = -2 ^ 63 ∧
      (folding 0x8000000000000000 1).acc.toInt - ((folding 0x8000000000000000 1).val[8]).toInt = -2 ^ 63 - 1 := by
  decide

theorem witness_MulFoldsExactProduct :
    (7 : Fin 8).val < (folding 0xC000000000000000 2).wlen.val ∧
      (folding 0xC000000000000000 2).acc.toInt * ((folding 0xC000000000000000 2).val[8]).toInt = -2 ^ 63 ∧
      (folding 0x4000000000000000 2).acc.toInt * ((folding 0x4000000000000000 2).val[8]).toInt = 2 ^ 63 := by decide

theorem witness_DivFoldsTruncatedQuotient :
    (7 : Fin 8).val < (folding 5 0).wlen.val ∧ ((folding 5 0).val[8]).toInt = 0 ∧
      ((folding 0x8000000000000000 (-1)).acc.toInt = -2 ^ 63 ∧
        ((folding 0x8000000000000000 (-1)).val[8]).toInt = -1) ∧
      (folding 0x8000000000000000 1).acc.toInt = -2 ^ 63 ∧ ((folding 0x8000000000000000 1).val[8]).toInt = 1 := by decide

/-- A state in pass 1 at `CUR = 7`, the last operator, with `a` and `b` at the cursor. -/
def scanning (a b : I64) : State :=
  { State.reset with wlen := 8, cur := 7, val := #v[0, 0, 0, 0, 0, 0, 0, a, b] }

theorem witness_Pass1SkipsAddAndSub : (scanning 0 0).cur.val < (scanning 0 0).wlen.val := by decide

theorem witness_Pass1ReducesMulAndDiv :
    (scanning 6 7).cur.val < (scanning 6 7).wlen.val ∧
      ((scanning 6 7).val[7]).toInt * ((scanning 6 7).val[8]).toInt = 42 ∧
      ((scanning 6 7).val[8]).toInt ≠ 0 ∧ ((scanning 6 7).val[7]).toInt.tdiv ((scanning 6 7).val[8]).toInt = 0 := by
  decide

theorem witness_Pass1FaultsOnRejectedPair :
    (scanning 0x4000000000000000 2).cur.val < (scanning 0x4000000000000000 2).wlen.val ∧
      2 ^ 63 - 1 < ((scanning 0x4000000000000000 2).val[7]).toInt * ((scanning 0x4000000000000000 2).val[8]).toInt ∧
      ((scanning 5 0).val[8]).toInt = 0 ∧ ((scanning 0x8000000000000000 (-1)).val[7]).toInt = -2 ^ 63 ∧
      ((scanning 0x8000000000000000 (-1)).val[8]).toInt = -1 := by decide

theorem witness_OperatorsPastLoopBoundDoNothing :
    ({ State.reset with wlen := 7 }).wlen.val ≤ (7 : Fin 8).val ∧
      ({ State.reset with wlen := 8, cur := 8 }).wlen.val ≤ ({ State.reset with wlen := 8, cur := 8 }).cur.val := by decide

theorem witness_OperatorFrame :
    (∃ t, exec (operatorInstr .div (.fold 7)) (folding 5 0) = .next t) ∧
      ∃ t, exec (operatorInstr .mul .pass1) (scanning 6 7) = .next t := ⟨⟨_, rfl⟩, ⟨_, rfl⟩⟩

/-- A state with `pb` pending bits holding `pv`, over the given source. -/
def pending (pb : BitVec 4) (pv : BitVec 16) (src : Source) : State :=
  { State.reset with pendBits := pb, pendVal := pv, src := src }

theorem witness_PendingBitsLaw :
    (∃ v t, extractCarry 15 (pending 15 1 ⟨[], .ended, 0⟩) = .ok (v, t)) ∧
      ∃ v t, extractCarry 16 (pending 0 0 ⟨[.ok 7], .ended, 0⟩) = .ok (v, t) := ⟨⟨_, _, rfl⟩, ⟨_, _, rfl⟩⟩

/-- The four clauses: exactly enough pending bits; one bit missing; no response; a malformed one. -/
theorem witness_CarryExtractionCases :
    (0x7FFF : BitVec 16).toNat < 2 ^ (15 : BitVec 4).toNat ∧ 15 ≤ (15 : BitVec 4).toNat ∧ (15 : BitVec 4).toNat < 16 ∧
      sourceAt ⟨[.ok 7], .ended, 0⟩ 0 = .chunk 7 ∧ sourceAt ⟨[], .ended, 0⟩ 0 = .endOfInput ∧
      sourceAt ⟨[.malformed], .ended, 0⟩ 0 = .malformed := ⟨by decide, by decide, by decide, rfl, rfl, rfl⟩

theorem witness_AlignedExtractionTakesTopBits :
    4 ∈ [1, 2, 4, 8, 16] ∧ 16 ∈ [1, 2, 4, 8, 16] ∧ ({ State.reset with k := 3 }).k.val % (16 / 4) ≠ 0 ∧ ({ State.reset with k := 8 }).k.val % (16 / 16) = 0 ∧
      sourceAt ⟨[.ok 7], .ended, 0⟩ 0 = .chunk 7 ∧ sourceAt ⟨[.ok 7], .ended, 0⟩ 1 = .endOfInput ∧
      sourceAt ⟨[.malformed], .ended, 0⟩ 0 = .malformed := ⟨by decide, by decide, by decide, by decide, rfl, rfl, rfl⟩

/-- Both modes at the largest count: nine chunks. -/
theorem witness_UnpackWritesOperandFields :
    16 % 16 = 0 ∧ chunkCount 8 16 = 9 ∧ chunkCount 8 15 = 9 ∧ State.reset.pendBits = 0 ∧ State.reset.pendVal = 0 ∧
      chunksAt (onSource [1, 2, 3, 4, 5, 6, 7, 8, 9]).src 0 9 = some [1, 2, 3, 4, 5, 6, 7, 8, 9] :=
  ⟨rfl, rfl, rfl, rfl, rfl, rfl⟩

theorem witness_OperandFieldStraddleFormula :
    (8 + 1) * 16 ≤ 16 * ([1, 2, 3, 4, 5, 6, 7, 8, 9] : List Chunk).length ∧
      (3 + 1) * 5 ≤ 16 * ([0x1883, 0x14F8] : List Chunk).length ∧ 3 * 5 % 16 + 5 > 16 := by decide

/-- 95_test_vectors.md E5: the smallest dimension at which every field of a chunk is used. -/
theorem witness_EvalP2ReturnsLeftToRightFold :
    (loaded 0x57180000 [0x2345]).ir.valid = true ∧ 16 % irD (loaded 0x57180000 [0x2345]).ir = 0 ∧
      chunksAt (loaded 0x57180000 [0x2345]).src 0 (chunkCount 3 4) = some [0x2345] ∧
      foldSeq (exprHead (decIr 0x57180000) [0x2345]) (exprTail (decIr 0x57180000) [0x2345]) = .ok 5 :=
  ⟨rfl, rfl, rfl, rfl⟩

/-- 95_test_vectors.md E2. -/
theorem witness_EvalGenReturnsLeftToRightFold :
    (loaded 0x24800000 [0x0C48]).ir.valid = true ∧
      chunksAt (loaded 0x24800000 [0x0C48]).src 0 (chunkCount 2 5) = some [0x0C48] ∧
      foldSeq (exprHead (decIr 0x24800000) [0x0C48]) (exprTail (decIr 0x24800000) [0x0C48]) = .ok 72 :=
  ⟨rfl, rfl, rfl⟩

/-- 95_test_vectors.md E2. -/
theorem witness_EvalPrecReturnsPrecedenceValue :
    (loaded 0x24800000 [0x0C48]).ir.valid = true ∧
      chunksAt (loaded 0x24800000 [0x0C48]).src 0 (chunkCount 2 5) = some [0x0C48] ∧
      pass1Seq (exprHead (decIr 0x24800000) [0x0C48]) (exprTail (decIr 0x24800000) [0x0C48]) =
        .ok (1, [(.add, 68)]) ∧ foldSeq 1 [(.add, 68)] = .ok 69 := ⟨rfl, rfl, rfl, rfl⟩

/-- 95_test_vectors.md E20 and E16. -/
theorem witness_EvalArithmeticFaultAfterAllReads :
    (loaded 0x19800000 [0x5000]).ir.valid = true ∧ 16 % irD (decIr 0x19800000) = 0 ∧
      chunksAt (loaded 0x19800000 [0x5000]).src 0 (chunkCount 1 4) = some [0x5000] ∧
      valueOf .p2 (decIr 0x19800000) [0x5000] = .error .divideByZero ∧
      valueOf .prec (decIr 0x55780000) [0xFFFF, 0xFFFF, 0xFFFF, 0xFFFF] = .error .overflow := ⟨rfl, rfl, rfl, rfl, rfl⟩

theorem witness_EvalWithoutInstructionFaults : State.reset.ir.valid = false := rfl

theorem witness_EvalP2RejectsUnsupportedDimension :
    (decIr 0x24800000).valid = true ∧ irD (decIr 0x24800000) ∈ [3, 5, 6, 7, 9, 10, 11, 12, 13, 14, 15] := by decide

/-- 95_test_vectors.md E24. -/
theorem witness_EvalShortSourceIsExhausted :
    (loaded 0x600E0000 [0x0102, 0x0304]).ir.valid = true ∧ 16 % irD (decIr 0x600E0000) = 0 ∧
      2 < chunkCount (irN (decIr 0x600E0000)) (irD (decIr 0x600E0000)) ∧
      goodReads (loaded 0x600E0000 [0x0102, 0x0304]) 2 ∧
      sourceAt (loaded 0x600E0000 [0x0102, 0x0304]).src (0 + 2) = .endOfInput :=
  ⟨rfl, rfl, by decide, ⟨_, rfl⟩, rfl⟩

/-- `loaded w []` over the given responses. -/
def loadedOver (w : Word32) (listed : List Response) (tail : SrcTail) : State :=
  { loaded w [] with src := ⟨listed, tail, 0⟩ }

/-- 95_test_vectors.md E26. -/
theorem witness_EvalMalformedResponseFaults :
    (loadedOver 0x600E0000 [.ok 0x0102, .malformed] .ended).ir.valid = true ∧ 16 % irD (decIr 0x600E0000) = 0 ∧
      1 < chunkCount (irN (decIr 0x600E0000)) (irD (decIr 0x600E0000)) ∧
      goodReads (loadedOver 0x600E0000 [.ok 0x0102, .malformed] .ended) 1 ∧
      sourceAt (loadedOver 0x600E0000 [.ok 0x0102, .malformed] .ended).src (0 + 1) = .malformed :=
  ⟨rfl, rfl, by decide, ⟨_, rfl⟩, rfl⟩

theorem witness_EvalStallsOnSilentSource :
    (loadedOver 0x600E0000 [.ok 0x0102] .silent).ir.valid = true ∧ 16 % irD (decIr 0x600E0000) = 0 ∧
      1 < chunkCount (irN (decIr 0x600E0000)) (irD (decIr 0x600E0000)) ∧
      goodReads (loadedOver 0x600E0000 [.ok 0x0102] .silent) 1 ∧
      sourceAt (loadedOver 0x600E0000 [.ok 0x0102] .silent).src (0 + 1) = .never :=
  ⟨rfl, rfl, by decide, ⟨_, rfl⟩, rfl⟩

theorem witness_EvalNeverTouchesInstruction :
    ∃ t, isEval .evalPrec = true ∧ exec .evalPrec (loaded 0x24800000 [0x0C48]) = .next t := ⟨_, rfl, rfl⟩

/-- 95_test_vectors.md E20: a faulted evaluation. -/
theorem witness_FaultedEvalLeavesStaleResult :
    ∃ t, isEval .evalGen = true ∧ exec .evalGen (loaded 0x19800000 [0x5000]) = .next t ∧ t.resValid = false :=
  ⟨_, rfl, rfl, rfl⟩

theorem witness_SuccessfulEvalReadsChunkCount :
    ∃ t, isEval .evalGen = true ∧ exec .evalGen (loaded 0x24800000 [0x0C48]) = .next t ∧ t.status = statusOk :=
  ⟨_, rfl, rfl, rfl⟩

theorem witness_P2AgreesWithGen : 16 % irD (decIr 0x57180000) = 0 := rfl

/-- 95_test_vectors.md E6: Sub Sub Sub. -/
theorem witness_PrecAgreesWithGenWithoutMulDiv :
    ∀ i : Fin 8, i.val < irN (decIr 0x4A980000) → isHigh (Op.ofCode (decIr 0x4A980000).op[i]) = false := by decide

/-- 95_test_vectors.md E33: Div Mul Sub. -/
theorem witness_PrecAgreesWithGenWhenMulDivLead :
    ∀ i j : Fin 8, i.val < j.val → j.val < irN (decIr 0x5CA80000) →
      isHigh (Op.ofCode (decIr 0x5CA80000).op[j]) = true → isHigh (Op.ofCode (decIr 0x5CA80000).op[i]) = true := by
  decide

/-- 95_test_vectors.md E2 and E34: the two chunks differ in the one unused bit. -/
theorem witness_EvalIgnoresUnusedBits :
    chunksAt (loaded 0x24800000 [0x0C48]).src 0 (chunkCount 2 5) = some [0x0C48] ∧
      chunksAt (onSource [0x0C49]).src 0 (chunkCount 2 5) = some [0x0C49] ∧
      streamNumber [0x0C48] 0 ((2 + 1) * 5) = streamNumber [0x0C49] 0 ((2 + 1) * 5) := ⟨rfl, rfl, rfl⟩

/-- The same Instruction and source content, from two pasts: reset, and a half-done fold. -/
theorem witness_EvalForgetsThePast :
    ∃ u v, isEval .evalGen = true ∧ (loadIr (decIr 0x24800000) (folding 1 2)).ir = (loaded 0x24800000 []).ir ∧
      (∀ p : Nat, sourceAt (loadIr (decIr 0x24800000) (folding 1 2)).src (0 + p) =
        sourceAt (loaded 0x24800000 []).src (0 + p)) ∧
      exec .evalGen (loadIr (decIr 0x24800000) (folding 1 2)) = .next u ∧ exec .evalGen (loaded 0x24800000 []) = .next v :=
  ⟨_, _, rfl, rfl, fun _ => rfl, rfl, rfl⟩

/-- 95_test_vectors.md E6. -/
theorem witness_AddSubEvaluationsNeverOverflow :
    (decIr 0x4A980000).valid = true ∧ 16 % irD (decIr 0x4A980000) = 0 ∧
      (∀ i : Fin 8, i.val < irN (decIr 0x4A980000) → isHigh (Op.ofCode (decIr 0x4A980000).op[i]) = false) ∧
      goodReads (loaded 0x4A980000 [0x1234]) (chunkCount 3 4) := ⟨rfl, rfl, by decide, ⟨_, rfl⟩⟩

theorem witness_FailedDecKeepsInstructionInForce :
    ∃ t, exec (.dec 0) (loaded 0x24800000 [0x0C48]) = .next t := ⟨_, rfl⟩

end Sys2Proof.Tests
end

section
/-! The number of chunks an evaluation reads (20_memory.md R47). Every phase of an evaluation is said once for both
of its endings, by the predicate `EndsIn`; the phases are then put together by its rule for `andThen`. -/

namespace Sys2Proof.Machine

section EndsIn
variable {α β : Type}

/-- A command, or a part of one, ends in a value with `P`, or in a fault that was taken (60_exceptions.md R181), or in
a read that is never answered (70_reset_and_hazards.md R209). -/
def EndsIn (P : α → Prop) : Except Halt α → Prop
  | .ok a => P a
  | .error (.raised t) => ∃ f u, t = takeFault f u
  | .error .silent => True

@[simp] theorem endsIn_ok {P : α → Prop} {a : α} : EndsIn P (.ok a) ↔ P a := Iff.rfl

@[simp] theorem endsIn_raise (P : α → Prop) (f : FaultKind) (s : State) : EndsIn P (raise f s) := ⟨f, s, rfl⟩

@[simp] theorem endsIn_silent (P : α → Prop) : EndsIn P (.error .silent) := trivial

/-- The rule of sequencing: the second part starts where the first one ends. -/
theorem EndsIn.andThen {P : α → Prop} {Q : β → Prop} {r : Except Halt α} {f : α → Except Halt β} (hr : EndsIn P r)
    (hf : ∀ a, P a → EndsIn Q (f a)) : EndsIn Q (andThen r f) := by
  match r with
  | .ok a => exact hf a hr
  | .error (.raised _) => exact hr
  | .error .silent => trivial

theorem EndsIn.mono {P Q : α → Prop} {r : Except Halt α} (hr : EndsIn P r) (h : ∀ a, P a → Q a) : EndsIn Q r := by
  match r with
  | .ok a => exact h a hr
  | .error (.raised _) => exact hr
  | .error .silent => trivial

theorem FaultKind.code_ne_statusOk (f : FaultKind) : f.code ≠ statusOk := by
  cases f <;> decide

/-- A command that ends with `STATUS` OK did not end in a fault. -/
theorem EndsIn.of_statusOk {P : State → Prop} {r : Except Halt State} {t : State} (hr : EndsIn P r)
    (hnext : finish r = .next t) (hok : t.status = statusOk) : P t := by
  rcases finish_eq_next.mp hnext with rfl | rfl
  · exact hr
  · obtain ⟨f, u, rfl⟩ := hr
    exact absurd hok f.code_ne_statusOk

end EndsIn

section Reducer

@[simp] theorem outsideReducer_src (s : State) : (outsideReducer s).src = s.src := rfl

@[simp] theorem outsideReducer_rdcnt (s : State) : (outsideReducer s).rdcnt = s.rdcnt := rfl

/-- An operator writes the reducer's registers only (43_evaluators.md R144, R145). -/
theorem applyOp_endsIn_outsideReducer (op : Op) (site : AluSite) (s : State) :
    EndsIn (fun t => outsideReducer t = outsideReducer s) (applyOp op site s) := by
  cases site with
  | pass1 =>
    rw [applyOp_pass1]
    split
    · rcases pass1Reduce_cases (alu op) s with ⟨_, h⟩ | ⟨_, ⟨_, _, h⟩ | ⟨_, _, h⟩⟩ <;> rw [h]
      · rfl
      · rfl
      · exact endsIn_raise ..
    · simp [outsideReducer]
  | fold j =>
    rw [applyOp_fold]
    rcases foldWith_cases (alu op) j s with ⟨_, h⟩ | ⟨_, _, _, h⟩ | ⟨_, _, _, h⟩ <;> rw [h]
    · rfl
    · rfl
    · exact endsIn_raise ..

theorem pass1From_endsIn_outsideReducer (steps : Nat) (s : State) :
    EndsIn (fun t => outsideReducer t = outsideReducer s) (pass1From steps s) := by
  induction steps generalizing s with
  | zero => simp
  | succ steps ih =>
    by_cases h : s.cur.val < s.wlen.val
    · rw [pass1From_succ h]
      exact (applyOp_endsIn_outsideReducer ..).andThen fun u hu => (ih u).mono fun _ ht => ht.trans hu
    · rw [pass1From_done (Nat.le_of_not_lt h)]
      simp

theorem foldFrom_endsIn_outsideReducer (left j : Nat) (s : State) :
    EndsIn (fun t => outsideReducer t = outsideReducer s) (foldFrom left j s) := by
  induction left generalizing j s with
  | zero => simp
  | succ left ih =>
    exact (applyOp_endsIn_outsideReducer ..).andThen fun u hu => (ih (j + 1) u).mono fun _ ht => ht.trans hu

theorem reduceHigh_endsIn_outsideReducer (mode : EvalMode) (s : State) :
    EndsIn (fun t => outsideReducer t = outsideReducer s) (reduceHigh mode s) := by
  cases mode with
  | p2 => exact endsIn_ok.mpr rfl
  | gen => exact endsIn_ok.mpr rfl
  | prec => exact pass1From_endsIn_outsideReducer _ { s with cur := 0, phase := .pass1 }

theorem fold_endsIn_outsideReducer (s : State) :
    EndsIn (fun t => outsideReducer t = outsideReducer s) (fold s) :=
  foldFrom_endsIn_outsideReducer _ 0 { s with acc := s.val[0], phase := .fold }

end Reducer

section ChunkCounting

/-- From `s` to `t` the block read `r` chunks, as the read position and `RDCNT` (4 bits wide) show. -/
def ChunksRead (s t : State) (r : Nat) : Prop :=
  t.src.pos = s.src.pos + r ∧ t.rdcnt = s.rdcnt + BitVec.ofNat 4 r

/-- One more successful read (20_memory.md R41). -/
theorem ChunksRead.countRead_advance {s t : State} {r : Nat} (h : ChunksRead s t r) :
    ChunksRead s (countRead (advance t)) (r + 1) := by
  obtain ⟨hpos, hcnt⟩ := h
  refine ⟨?_, ?_⟩
  · simp [hpos, Nat.add_assoc]
  · simp [hcnt, BitVec.ofNat_add, BitVec.add_assoc]

/-- The reducer reads nothing. -/
theorem ChunksRead.of_outsideReducer {s t u : State} {r : Nat} (h : ChunksRead s t r)
    (hu : outsideReducer u = outsideReducer t) : ChunksRead s u r := by
  have hsrc : u.src = t.src := by simpa using congrArg State.src hu
  have hcnt : u.rdcnt = t.rdcnt := by simpa using congrArg State.rdcnt hu
  rwa [ChunksRead, hsrc, hcnt]

/-- Neither does writing the result. -/
theorem ChunksRead.writeResult {s t : State} {r : Nat} (h : ChunksRead s t r) : ChunksRead s (writeResult t) r := h

/-- The chunks that hold `k` operands of `d` bits: `ceil(k * d / 16)`. -/
def chunksFor (k d : Nat) : Nat := (k * d + 15) / 16

/-- The bits those chunks hold beyond `k` operands. -/
def spareBits (k d : Nat) : Nat := 16 * chunksFor k d - k * d

theorem chunkCount_eq_chunksFor (n d : Nat) : chunkCount n d = chunksFor (n + 1) d := rfl

/-- An operand that fits the spare bits needs no chunk. -/
theorem chunksFor_succ_of_le {k d : Nat} (h : d ≤ spareBits k d) :
    chunksFor (k + 1) d = chunksFor k d ∧ spareBits (k + 1) d = spareBits k d - d := by
  simp only [spareBits, chunksFor, Nat.succ_mul] at h ⊢
  omega

/-- An operand that does not fit the spare bits needs exactly one chunk. -/
theorem chunksFor_succ_of_lt {k d : Nat} (hd : d ≤ 16) (h : spareBits k d < d) :
    chunksFor (k + 1) d = chunksFor k d + 1 ∧ spareBits (k + 1) d = 16 - (d - spareBits k d) := by
  simp only [spareBits, chunksFor, Nat.succ_mul] at h ⊢
  omega

/-- For a dimension dividing 16, the first operand of a chunk is the one with no spare bits before it
(41_unpacker.md R102). -/
theorem mod_eq_zero_iff_spareBits_lt {k d : Nat} (hd : d ≤ 16) (h : 16 % d = 0) :
    k % (16 / d) = 0 ↔ spareBits k d < d := by
  have hcases : d = 1 ∨ d = 2 ∨ d = 4 ∨ d = 8 ∨ d = 16 := by
    interval_cases d <;> simp at h ⊢
  simp only [spareBits, chunksFor]
  rcases hcases with rfl | rfl | rfl | rfl | rfl <;> omega

end ChunkCounting

section Unpacking

/-- Where UNPACK stands before operand `k`, having started from `s`: exactly the chunks of the first `k` operands are
read, and in the carry mode what they hold beyond them is pending. -/
structure UnpackedTo (mode : ExtractMode) (d k : Nat) (s t : State) : Prop where
  reads : ChunksRead s t (chunksFor k d)
  pending : mode = .carry → t.pendBits.toNat = spareBits k d

theorem unpackedTo_startUnpack (mode : ExtractMode) (d : Nat) (s : State) :
    UnpackedTo mode d 0 s (startUnpack s) where
  reads := by simp [ChunksRead, chunksFor]
  pending _ := by simp [spareBits, chunksFor]

theorem UnpackedTo.setK {mode : ExtractMode} {d k : Nat} {s t : State} (h : UnpackedTo mode d k s t) (j : Nat) :
    UnpackedTo mode d k s (setK j t) := ⟨h.reads, h.pending⟩

theorem UnpackedTo.writeOperand {mode : ExtractMode} {d k : Nat} {s t : State} (h : UnpackedTo mode d k s t)
    (v : Chunk) : UnpackedTo mode d k s (writeOperand v t) := ⟨h.reads, h.pending⟩

theorem readChunk_endsIn_countRead (s : State) :
    EndsIn (fun r => r.2 = countRead (advance s)) (readChunk s) := by
  rcases readChunk_cases s with ⟨v, _, h⟩ | ⟨_, h⟩ | ⟨_, h⟩ | ⟨_, h⟩ <;> rw [h]
  · rfl
  · exact endsIn_raise ..
  · exact endsIn_raise ..
  · exact endsIn_silent _

/-- EXTRACT_ALIGNED reads a chunk exactly when the spare bits run out (41_unpacker.md R102). -/
theorem extractAligned_endsIn_unpackedTo {d k : Nat} {s t : State} (hd : d ≤ 16) (hdvd : 16 % d = 0)
    (hk : t.k.val = k) (h : UnpackedTo .aligned d k s t) :
    EndsIn (fun r => UnpackedTo .aligned d (k + 1) s r.2) (extractAligned d t) := by
  have hrefill : EndsIn (fun u => ChunksRead s u (chunksFor (k + 1) d)) (refillWork d t) := by
    have hfirst := mod_eq_zero_iff_spareBits_lt (k := k) hd hdvd
    rw [refillWork, hk]
    split
    case isTrue hzero =>
      rw [(chunksFor_succ_of_lt hd (hfirst.mp hzero)).1]
      refine (readChunk_endsIn_countRead t).andThen fun r hr => ?_
      have hread := h.reads.countRead_advance
      rwa [← hr] at hread
    case isFalse hzero =>
      rw [(chunksFor_succ_of_le (Nat.le_of_not_lt fun hlt => hzero (hfirst.mpr hlt))).1]
      exact h.reads
  exact hrefill.andThen fun u hu => ⟨hu, nofun⟩

/-- The read of EXTRACT_CARRY's cases A and B (41_unpacker.md R104), which keeps the rest of the chunk pending. -/
theorem unpackedTo_keepPending {d k pb : Nat} {v : Chunk} {s t : State} (hd : d ≤ 16)
    (h : UnpackedTo .carry d k s t) (hlt : spareBits k d < d) (hpb : pb = 16 - (d - spareBits k d)) :
    UnpackedTo .carry d (k + 1) s (keepPending pb v (countRead (advance t))) := by
  obtain ⟨hreads, hspare⟩ := chunksFor_succ_of_lt hd hlt
  refine ⟨?_, fun _ => ?_⟩
  · rw [hreads]
    exact h.reads.countRead_advance
  · rw [(keepPending_small (by omega) _ _).1, hspare, hpb]

/-- EXTRACT_CARRY reads a chunk exactly when the spare bits run out (41_unpacker.md R104). -/
theorem extractCarry_endsIn_unpackedTo {d k : Nat} {s t : State} (hpos : 1 ≤ d) (hd : d ≤ 16)
    (h : UnpackedTo .carry d k s t) :
    EndsIn (fun r => UnpackedTo .carry d (k + 1) s r.2) (extractCarry d t) := by
  have hpending := h.pending rfl
  have hwidth := t.pendBits.isLt
  by_cases hle : d ≤ t.pendBits.toNat
  · obtain ⟨hreads, hspare⟩ := chunksFor_succ_of_le (hpending ▸ hle)
    rw [extractCarry_pending hle, endsIn_ok]
    refine ⟨hreads.symm ▸ h.reads, fun _ => ?_⟩
    rw [(keepPending_small (by omega) _ _).1, hspare, hpending]
  · have hlt : spareBits k d < d := by omega
    by_cases hzero : t.pendBits.toNat = 0
    · rw [extractCarry_fresh hpos hzero]
      refine (readChunk_endsIn_countRead t).andThen fun r hr => endsIn_ok.mpr ?_
      rw [hr]
      exact unpackedTo_keepPending hd h hlt (by omega)
    · rw [extractCarry_straddle hzero (by omega)]
      refine (readChunk_endsIn_countRead t).andThen fun r hr => endsIn_ok.mpr ?_
      rw [hr]
      exact unpackedTo_keepPending hd h hlt (by omega)

theorem extract_endsIn_unpackedTo {mode : ExtractMode} {d k : Nat} {s t : State} (hpos : 1 ≤ d) (hd : d ≤ 16)
    (hdvd : mode = .aligned → 16 % d = 0) (hk : t.k.val = k) (h : UnpackedTo mode d k s t) :
    EndsIn (fun r => UnpackedTo mode d (k + 1) s r.2) (extract mode d t) := by
  cases mode with
  | aligned => exact extractAligned_endsIn_unpackedTo hd (hdvd rfl) hk h
  | carry => exact extractCarry_endsIn_unpackedTo hpos hd h

/-- UNPACK reads exactly the chunks of its operands (20_memory.md R47). -/
theorem unpackFrom_endsIn_unpackedTo {mode : ExtractMode} {d left k : Nat} {s t : State} (hpos : 1 ≤ d) (hd : d ≤ 16)
    (hdvd : mode = .aligned → 16 % d = 0) (hk : k + left ≤ 9) (h : UnpackedTo mode d k s t) :
    EndsIn (UnpackedTo mode d (k + left) s) (unpackFrom mode d left k t) := by
  induction left generalizing k t with
  | zero => exact h
  | succ left ih =>
    have hkval : (setK k t).k.val = k := Nat.mod_eq_of_lt (by omega)
    rw [unpackFrom_succ, show k + (left + 1) = k + 1 + left by omega]
    exact (extract_endsIn_unpackedTo hpos hd hdvd hkval (h.setK k)).andThen fun r hr =>
      ih (by omega) (hr.writeOperand r.1)

end Unpacking

section Evaluation

theorem irN_le (ir : Ir) : irN ir ≤ 8 := ir.nm1.isLt

theorem one_le_irD (ir : Ir) : 1 ≤ irD ir := Nat.le_add_left 1 _

theorem irD_le (ir : Ir) : irD ir ≤ 16 := ir.dm1.isLt

/-- An Instruction needs at most nine chunks (20_memory.md R47). -/
theorem chunkCount_ir_le (ir : Ir) : chunkCount (irN ir) (irD ir) ≤ 9 := by
  have hbits : (irN ir + 1) * irD ir ≤ 9 * 16 := Nat.mul_le_mul (Nat.succ_le_succ (irN_le ir)) (irD_le ir)
  simp only [chunkCount]
  omega

theorem isEval_eq_true {i : Instr} (h : isEval i = true) : ∃ mode, i = evalInstr mode := by
  cases i with
  | evalP2 => exact ⟨.p2, rfl⟩
  | evalGen => exact ⟨.gen, rfl⟩
  | evalPrec => exact ⟨.prec, rfl⟩
  | _ => cases h

theorem evalBody_endsIn_chunksRead {mode : EvalMode} {s : State} (hdvd : mode = .p2 → 16 % irD s.ir = 0) :
    EndsIn (fun t => ChunksRead s t (chunkCount (irN s.ir) (irD s.ir))) (evalBody mode s) := by
  have haligned : extractModeOf mode = .aligned → 16 % irD s.ir = 0 := by
    cases mode with
    | p2 => exact fun _ => hdvd rfl
    | gen => nofun
    | prec => nofun
  have hcount : 0 + (irN s.ir + 1) ≤ 9 := by
    have hn := irN_le s.ir
    omega
  have hunpack := unpackFrom_endsIn_unpackedTo (one_le_irD s.ir) (irD_le s.ir) haligned hcount
    (unpackedTo_startUnpack (extractModeOf mode) (irD s.ir) s)
  rw [Nat.zero_add] at hunpack
  refine hunpack.andThen fun t ht => (reduceHigh_endsIn_outsideReducer mode t).andThen fun u hu =>
    (fold_endsIn_outsideReducer u).andThen fun v hv => ?_
  exact ((ht.reads.of_outsideReducer hu).of_outsideReducer hv).writeResult

/-- An evaluation that is not faulted has read `CHUNKS(N, D)` chunks since it cleared `RDCNT` (20_memory.md R47). -/
theorem eval_endsIn_chunksRead (mode : EvalMode) (s : State) :
    EndsIn (fun t => ChunksRead (clearResult s) t (chunkCount (irN s.ir) (irD s.ir))) (eval mode s) := by
  rcases eval_cases mode s with ⟨_, h⟩ | ⟨_, _, _, h⟩ | ⟨_, hdvd, h⟩ <;> rw [h]
  · exact endsIn_raise ..
  · exact endsIn_raise ..
  · exact evalBody_endsIn_chunksRead hdvd

/-- A successful evaluation shows `CHUNKS(N, D)` in `RDCNT` and in the read position (20_memory.md R47). -/
theorem exec_eval_reads_chunkCount {i : Instr} {s t : State} (hi : isEval i = true) (hnext : exec i s = .next t)
    (hok : t.status = statusOk) :
    t.rdcnt.toNat = chunkCount (irN s.ir) (irD s.ir) ∧
      t.src.pos = s.src.pos + chunkCount (irN s.ir) (irD s.ir) := by
  obtain ⟨mode, rfl⟩ := isEval_eq_true hi
  rw [exec_evalInstr] at hnext
  obtain ⟨hpos, hcnt⟩ := (eval_endsIn_chunksRead mode s).of_statusOk hnext hok
  have hle := chunkCount_ir_le s.ir
  refine ⟨?_, hpos⟩
  rw [hcnt, clearResult_rdcnt, BitVec.ofNat_eq_ofNat, BitVec.zero_add, BitVec.toNat_ofNat]
  exact Nat.mod_eq_of_lt (by omega)

end Evaluation

/-- Settles O53: `RDCNT` is `CHUNKS(N, D)` after a success, and `ceil` is the one number between these bounds. -/
theorem successfulEvalReadsChunkCount : Obligations.SuccessfulEvalReadsChunkCount := by
  unfold Obligations.SuccessfulEvalReadsChunkCount
  intro i s t hi hnext hok
  obtain ⟨hcnt, hpos⟩ := exec_eval_reads_chunkCount hi hnext hok
  have hbits : 1 ≤ (irN s.ir + 1) * irD s.ir := Nat.mul_pos (Nat.succ_pos _) (one_le_irD s.ir)
  rw [hcnt, chunkCount]
  exact ⟨by omega, by omega, hpos⟩

end Sys2Proof.Machine
end

section
/-! The pending bits after an extraction in the carry mode (41_unpacker.md R105). -/

namespace Sys2Proof.Machine

/-- The pending bits after an extraction of `d` bits when `pb` are pending: one formula for the three cases of
EXTRACT_CARRY (41_unpacker.md R105). -/
def pendingAfter (pb d : Nat) : Nat := (pb + 16 - d) % 16

theorem pendingAfter_le (pb d : Nat) : pendingAfter pb d ≤ 15 := Nat.le_of_lt_succ (Nat.mod_lt _ (by norm_num))

/-- Case C of R104: the operand is taken from the pending bits. -/
theorem pendingAfter_of_le {pb d : Nat} (hpb : pb < 16) (hpos : 1 ≤ d) (h : d ≤ pb) :
    pendingAfter pb d = pb - d := by
  unfold pendingAfter
  omega

/-- Cases A and B of R104: a chunk supplies the `d - pb` bits that are missing. -/
theorem pendingAfter_of_lt {pb d : Nat} (hd : d ≤ 16) (h : pb < d) : pendingAfter pb d = 16 - (d - pb) := by
  unfold pendingAfter
  omega

/-- Whichever case applies, a successful EXTRACT_CARRY ends by keeping `pendingAfter` bits pending, either of the
pending value or of a chunk just read. -/
theorem extractCarry_eq_ok_keepPending {d : Nat} {s t : State} {v : Chunk} (hpos : 1 ≤ d) (hd : d ≤ 16)
    (h : extractCarry d s = .ok (v, t)) :
    ∃ c u, (c = s.pendVal ∧ u = s ∨ readChunk s = .ok (c, u)) ∧
      t = keepPending (pendingAfter s.pendBits.toNat d) c u := by
  by_cases hle : d ≤ s.pendBits.toNat
  · rw [extractCarry_pending hle] at h
    cases h
    exact ⟨s.pendVal, s, .inl ⟨rfl, rfl⟩, by rw [pendingAfter_of_le s.pendBits.isLt hpos hle]⟩
  · have hlt : s.pendBits.toNat < d := Nat.lt_of_not_le hle
    rw [pendingAfter_of_lt hd hlt]
    by_cases hzero : s.pendBits.toNat = 0
    · rw [extractCarry_fresh hpos hzero] at h
      obtain ⟨⟨c, u⟩, hread, ht⟩ := andThen_eq_ok.mp h
      cases ht
      exact ⟨c, u, .inr hread, by rw [hzero, Nat.sub_zero]⟩
    · rw [extractCarry_straddle hzero hlt] at h
      obtain ⟨⟨c, u⟩, hread, ht⟩ := andThen_eq_ok.mp h
      cases ht
      exact ⟨c, u, .inr hread, rfl⟩

/-- Settles O37: every case of EXTRACT_CARRY keeps `pendingAfter` bits pending, and they fit `PEND_BITS`. -/
theorem pendingBitsLaw : Obligations.PendingBitsLaw := by
  unfold Obligations.PendingBitsLaw
  intro d s t v hpos hd h
  obtain ⟨c, u, _, rfl⟩ := extractCarry_eq_ok_keepPending hpos hd h
  exact (keepPending_small (pendingAfter_le _ _) c u).1

end Sys2Proof.Machine
end

section
/-! The ALU at the fold (42_alu.md R121 to R124): an iteration is said once for every operator, by what its ALU
function answers; the division adds when its quotient is a member of `I64`. -/

namespace Sys2Proof.Machine

section FoldIteration
variable {op : Op} {s : State} {j : Fin 8} {r : Int} {k : FaultKind}

/-- An iteration of the fold with an ALU result (43_evaluators.md R145): the result goes to `ACC`, all else stays. -/
theorem exec_fold_of_alu_ok (hj : j.val < s.wlen.val) (h : alu op s.acc.toInt (s.val[j.val + 1]).toInt = .ok r) :
    ∃ t, exec (operatorInstr op (.fold j)) s = .next t ∧ t.acc.toInt = r ∧ t = { s with acc := t.acc } := by
  obtain ⟨hlo, hhi⟩ := alu_ok_mem h
  refine ⟨{ s with acc := BitVec.ofInt 64 r }, ?_, toInt_ofInt_of_mem hlo hhi, rfl⟩
  rw [exec_operatorInstr, applyOp_fold, foldWith, if_pos hj, h]
  rfl

/-- An iteration of the fold that the ALU rejects takes the ALU's fault. -/
theorem exec_fold_of_alu_error (hj : j.val < s.wlen.val)
    (h : alu op s.acc.toInt (s.val[j.val + 1]).toInt = .error k) :
    exec (operatorInstr op (.fold j)) s = .next (takeFault k s) := by
  rw [exec_operatorInstr, applyOp_fold, foldWith, if_pos hj, h]
  rfl

/-- An iteration of the fold whose ALU function is the range test of one exact number (42_alu.md R125): that number,
or `Overflow`. -/
theorem exec_fold_of_alu_eq_narrow (hj : j.val < s.wlen.val)
    (h : alu op s.acc.toInt (s.val[j.val + 1]).toInt = narrow r) :
    (-2 ^ 63 ≤ r ∧ r ≤ 2 ^ 63 - 1 →
      ∃ t, exec (operatorInstr op (.fold j)) s = .next t ∧ t.acc.toInt = r ∧ t = { s with acc := t.acc }) ∧
    (r < -2 ^ 63 ∨ 2 ^ 63 - 1 < r →
      exec (operatorInstr op (.fold j)) s = .next (takeFault .overflow s)) :=
  ⟨fun hmem => exec_fold_of_alu_ok hj (h.trans (narrow_of_mem hmem.1 hmem.2)),
    fun hout => exec_fold_of_alu_error hj (h.trans (narrow_of_not_mem hout))⟩

end FoldIteration

section Division

theorem aluDiv_zero (a : Int) : aluDiv a 0 = .error .divideByZero := rfl

theorem aluDiv_of_ne_zero (a : Int) {b : Int} (hb : b ≠ 0) : aluDiv a b = narrow (a.tdiv b) := if_neg hb

/-- The one pair whose quotient leaves `I64` (42_alu.md R124). -/
theorem aluDiv_min_neg_one : aluDiv (-2 ^ 63) (-1) = .error .overflow := by decide

/-- Every other quotient is the number of a 64-bit register, so it is a member of `I64`. -/
theorem tdiv_toInt_mem {x y : I64} (h : ¬(x.toInt = -2 ^ 63 ∧ y.toInt = -1)) :
    -2 ^ 63 ≤ x.toInt.tdiv y.toInt ∧ x.toInt.tdiv y.toInt ≤ 2 ^ 63 - 1 := by
  have hne : x ≠ BitVec.intMin 64 ∨ y ≠ -1#64 := by
    rw [← not_and_or]
    rintro ⟨rfl, rfl⟩
    exact h (by decide)
  rw [← BitVec.toInt_sdiv_of_ne_or_ne x y hne]
  exact ⟨BitVec.le_toInt _, Int.le_sub_one_of_lt BitVec.toInt_lt⟩

/-- A quotient rounded toward zero is 0 or has the sign of the product (00_scope.md R7). -/
theorem tdiv_mul_mul_nonneg (a b : Int) : 0 ≤ a.tdiv b * (a * b) := by
  rw [← Int.sign_nonneg_iff, Int.sign_mul, Int.sign_mul, Int.sign_tdiv]
  split
  · rw [zero_mul]
  · exact mul_self_nonneg _

end Division

/-- Settles O28: the ALU's ADD is the range test of the exact sum. -/
theorem addFoldsExactSum : Obligations.AddFoldsExactSum := fun _ _ hj =>
  exec_fold_of_alu_eq_narrow (op := .add) hj rfl

/-- Settles O29: the ALU's SUB is the range test of the exact difference. -/
theorem subFoldsExactDifference : Obligations.SubFoldsExactDifference := fun _ _ hj =>
  exec_fold_of_alu_eq_narrow (op := .sub) hj rfl

/-- Settles O30: the ALU's MUL is the range test of the exact product. -/
theorem mulFoldsExactProduct : Obligations.MulFoldsExactProduct := fun _ _ hj =>
  exec_fold_of_alu_eq_narrow (op := .mul) hj rfl

/-- Settles O31, by the three answers of DIV: `DivideByZero`, the one `Overflow`, and the quotient. -/
theorem divFoldsTruncatedQuotient : Obligations.DivFoldsTruncatedQuotient := by
  unfold Obligations.DivFoldsTruncatedQuotient
  intro s j hj a b
  refine ⟨fun hb => ?_, fun ⟨ha, hb⟩ => ?_, fun ⟨hb, hne⟩ => ?_⟩
  · have hdiv : aluDiv a b = .error .divideByZero := by rw [hb, aluDiv_zero]
    exact exec_fold_of_alu_error (op := .div) hj hdiv
  · have hdiv : aluDiv a b = .error .overflow := by rw [ha, hb, aluDiv_min_neg_one]
    exact exec_fold_of_alu_error (op := .div) hj hdiv
  · obtain ⟨hlo, hhi⟩ := tdiv_toInt_mem hne
    have hdiv : aluDiv a b = .ok (a.tdiv b) := by rw [aluDiv_of_ne_zero a hb, narrow_of_mem hlo hhi]
    obtain ⟨t, hexec, hacc, hframe⟩ := exec_fold_of_alu_ok (op := .div) hj hdiv
    refine ⟨t, hexec, ?_, ?_, hframe⟩ <;> rw [hacc]
    · exact Int.natAbs_tdiv a b
    · exact tdiv_mul_mul_nonneg a b

end Sys2Proof.Machine
end

section
/-! The same evaluation run in lockstep from two states with equal `IR` and equal upcoming source content
(43_evaluators.md R150): after every phase the registers that a later phase reads are equal, whatever the rest of the
two states holds. On the way each run keeps what R148 says, so that the run of a state beside itself gives R148. -/

namespace Sys2Proof.Machine

section Lockstep

/-- Of two evaluations begun in `s₀` and `t₀` and ended in `s` and `t`: the first changed nothing that evaluations
keep, and the two have the same result. -/
structure SameOutcome (s₀ t₀ s t : State) : Prop where
  keeps : evalKeeps s₀ s
  status : s.status = t.status
  resValid : s.resValid = t.resValid
  rdcnt : s.rdcnt = t.rdcnt
  res : s.resValid = true → s.res = t.res
  taken : ∃ r, s.src.pos = s₀.src.pos + r ∧ t.src.pos = t₀.src.pos + r

/-- Two evaluations begun in `s₀` and `t₀` stand at `s` and `t`, neither of them ended: they have taken equally many
responses, and the reducer's lists of operators and their first `m` operands are equal. -/
structure Lockstep (s₀ t₀ : State) (m : Nat) (s t : State) : Prop where
  keeps : evalKeeps s₀ s
  noResult_left : s.resValid = false
  noResult_right : t.resValid = false
  rdcnt : s.rdcnt = t.rdcnt
  taken : ∃ r, s.src.pos = s₀.src.pos + r ∧ t.src.pos = t₀.src.pos + r
  upcoming : ∀ p, sourceAt s.src (s.src.pos + p) = sourceAt t.src (t.src.pos + p)
  wops : s.wops = t.wops
  wlen : s.wlen = t.wlen
  wlen_le : t.wlen.val ≤ irN s₀.ir
  val : ∀ (i : Nat) (hi : i < 9), i < m → s.val[i] = t.val[i]

variable {α β : Type} {s₀ t₀ s t : State} {m : Nat}

/-- A fault taken by both runs is their common outcome (60_exceptions.md R181). -/
theorem Lockstep.takeFault (h : Lockstep s₀ t₀ m s t) (f : FaultKind) :
    SameOutcome s₀ t₀ (takeFault f s) (takeFault f t) where
  keeps := h.keeps
  status := rfl
  resValid := h.noResult_left.trans h.noResult_right.symm
  rdcnt := h.rdcnt
  res hvalid := absurd (h.noResult_left.symm.trans hvalid) Bool.false_ne_true
  taken := h.taken

/-- Equal accumulators are returned as equal results (43_evaluators.md R140). -/
theorem Lockstep.writeResult (h : Lockstep s₀ t₀ m s t) (hacc : s.acc = t.acc) :
    SameOutcome s₀ t₀ (writeResult s) (writeResult t) where
  keeps := h.keeps
  status := rfl
  resValid := rfl
  rdcnt := h.rdcnt
  res _ := hacc
  taken := h.taken

/-- Both runs consume the response they were given. -/
theorem Lockstep.advance (h : Lockstep s₀ t₀ m s t) : Lockstep s₀ t₀ m (advance s) (advance t) where
  __ := h
  taken := by
    obtain ⟨r, hs, ht⟩ := h.taken
    exact ⟨r + 1, congrArg (· + 1) hs, congrArg (· + 1) ht⟩
  upcoming p := by
    have hnext := h.upcoming (1 + p)
    rwa [← Nat.add_assoc, ← Nat.add_assoc] at hnext

theorem Lockstep.countRead (h : Lockstep s₀ t₀ m s t) : Lockstep s₀ t₀ m (countRead s) (countRead t) :=
  { h with rdcnt := congrArg (· + 1) h.rdcnt }

/-- The reducer's list reaches one operand further than its operators, and UNPACK has written them all. -/
theorem Lockstep.val_of_le_wlen (h : Lockstep s₀ t₀ (irN s₀.ir + 1) s t) {i : Nat} (hi : i ≤ t.wlen.val) :
    s.val[i] = t.val[i] :=
  h.val i (by omega) (Nat.lt_succ_of_le (hi.trans h.wlen_le))

/-- Two parts of evaluations end alike: in values related by `R`, in one outcome, or in a read that is never
answered. -/
def EndAlike (s₀ t₀ : State) (R : α → α → Prop) : Except Halt α → Except Halt α → Prop
  | .ok a, .ok b => R a b
  | .error (.raised u), .error (.raised v) => SameOutcome s₀ t₀ u v
  | .error .silent, .error .silent => True
  | _, _ => False

theorem Lockstep.endAlike_raise (h : Lockstep s₀ t₀ m s t) (R : α → α → Prop) (f : FaultKind) :
    EndAlike s₀ t₀ R (raise f s) (raise f t) := h.takeFault f

/-- The rule of sequencing for two runs at once. -/
theorem EndAlike.andThen {R : α → α → Prop} {Q : β → β → Prop} {r r' : Except Halt α} {f g : α → Except Halt β}
    (h : EndAlike s₀ t₀ R r r') (hfg : ∀ a b, R a b → EndAlike s₀ t₀ Q (f a) (g b)) :
    EndAlike s₀ t₀ Q (andThen r f) (andThen r' g) := by
  match r, r' with
  | .ok a, .ok b => exact hfg a b h
  | .error (.raised _), .error (.raised _) => exact h
  | .error .silent, .error .silent => trivial

theorem EndAlike.mono {R Q : α → α → Prop} {r r' : Except Halt α} (h : EndAlike s₀ t₀ R r r')
    (hRQ : ∀ a b, R a b → Q a b) : EndAlike s₀ t₀ Q r r' := by
  match r, r' with
  | .ok a, .ok b => exact hRQ a b h
  | .error (.raised _), .error (.raised _) => exact h
  | .error .silent, .error .silent => trivial

/-- Two commands that end alike and answer next states have the same outcome. -/
theorem EndAlike.sameOutcome {r r' : Except Halt State} {u v : State} (h : EndAlike s₀ t₀ (SameOutcome s₀ t₀) r r')
    (hu : finish r = .next u) (hv : finish r' = .next v) : SameOutcome s₀ t₀ u v := by
  rcases finish_eq_next.mp hu with rfl | rfl <;> rcases finish_eq_next.mp hv with rfl | rfl
  · exact h
  · exact h.elim
  · exact h.elim
  · exact h

end Lockstep

section LockstepUnpack
variable {s₀ t₀ s t : State} {d k : Nat}

/-- The two runs stand between operands of UNPACK, with `m` operands written. -/
structure UnpackAlike (s₀ t₀ : State) (m : Nat) (s t : State) : Prop extends Lockstep s₀ t₀ m s t where
  pendBits : s.pendBits = t.pendBits
  pendVal : s.pendVal = t.pendVal
  work : s.work = t.work

/-- The two runs extract operand `k`. -/
structure ExtractAlike (s₀ t₀ : State) (k : Nat) (s t : State) : Prop extends UnpackAlike s₀ t₀ k s t where
  k_left : s.k.val = k
  k_right : t.k.val = k

/-- The two runs have read or extracted the same bits. -/
def ChunkAlike (s₀ t₀ : State) (k : Nat) (r r' : Chunk × State) : Prop :=
  r.1 = r'.1 ∧ ExtractAlike s₀ t₀ k r.2 r'.2

theorem UnpackAlike.setK (h : UnpackAlike s₀ t₀ k s t) (hk : k < 9) :
    ExtractAlike s₀ t₀ k (setK k s) (setK k t) :=
  { h with k_left := Nat.mod_eq_of_lt hk, k_right := Nat.mod_eq_of_lt hk }

theorem ExtractAlike.keepPending (h : ExtractAlike s₀ t₀ k s t) (pb : Nat) (v : Chunk) :
    ExtractAlike s₀ t₀ k (keepPending pb v s) (keepPending pb v t) :=
  { h with pendBits := rfl, pendVal := rfl }

theorem ExtractAlike.setWork (h : ExtractAlike s₀ t₀ k s t) (v : Chunk) :
    ExtractAlike s₀ t₀ k { s with work := v } { t with work := v } :=
  { h with work := rfl }

/-- Writing operand `k` extends the equal operands by one. -/
theorem ExtractAlike.writeOperand (h : ExtractAlike s₀ t₀ k s t) (v : Chunk) :
    UnpackAlike s₀ t₀ (k + 1) (writeOperand v s) (writeOperand v t) where
  __ := h
  val i hi hle := by
    simp only [writeOperand_val, Vector.getElem_set, h.k_left, h.k_right]
    split
    · rfl
    · exact h.val i hi (by omega)

/-- A read answers both runs alike, because the upcoming content is equal (20_memory.md R41). -/
theorem readChunk_endAlike (h : ExtractAlike s₀ t₀ k s t) :
    EndAlike s₀ t₀ (ChunkAlike s₀ t₀ k) (readChunk s) (readChunk t) := by
  have hsame : sourceAt s.src s.src.pos = sourceAt t.src t.src.pos := h.upcoming 0
  rcases readChunk_cases t with ⟨v, ht, hrun⟩ | ⟨ht, hrun⟩ | ⟨ht, hrun⟩ | ⟨ht, hrun⟩ <;> rw [hrun]
  · rw [readChunk_chunk (hsame.trans ht)]
    exact ⟨rfl, { h with toLockstep := h.advance.countRead }⟩
  · rw [readChunk_malformed (hsame.trans ht)]
    exact h.advance.endAlike_raise ..
  · rw [readChunk_endOfInput (hsame.trans ht)]
    exact h.endAlike_raise ..
  · rw [readChunk_never (hsame.trans ht)]
    trivial

theorem extractAligned_endAlike (h : ExtractAlike s₀ t₀ k s t) :
    EndAlike s₀ t₀ (ChunkAlike s₀ t₀ k) (extractAligned d s) (extractAligned d t) := by
  have hrefill : EndAlike s₀ t₀ (ExtractAlike s₀ t₀ k) (refillWork d s) (refillWork d t) := by
    rw [refillWork, refillWork, h.k_left, h.k_right]
    split
    · refine (readChunk_endAlike h).andThen fun r r' ⟨hv, hr⟩ => ?_
      rw [hv]
      exact hr.setWork _
    · exact h
  refine hrefill.andThen fun u v huv => ?_
  rw [huv.work]
  exact ⟨rfl, huv.setWork _⟩

/-- The read of EXTRACT_CARRY's cases A and B (41_unpacker.md R104). -/
theorem readChunk_keepPending_endAlike (h : ExtractAlike s₀ t₀ k s t) (f : Chunk → Chunk) (pb : Nat) :
    EndAlike s₀ t₀ (ChunkAlike s₀ t₀ k) (andThen (readChunk s) fun r => .ok (f r.1, keepPending pb r.1 r.2))
      (andThen (readChunk t) fun r => .ok (f r.1, keepPending pb r.1 r.2)) := by
  refine (readChunk_endAlike h).andThen fun r r' ⟨hv, hr⟩ => ?_
  rw [hv]
  exact ⟨rfl, hr.keepPending ..⟩

/-- The case of EXTRACT_CARRY is chosen by `PEND_BITS` alone (41_unpacker.md R104). -/
theorem extractCarry_endAlike (hd : 1 ≤ d) (h : ExtractAlike s₀ t₀ k s t) :
    EndAlike s₀ t₀ (ChunkAlike s₀ t₀ k) (extractCarry d s) (extractCarry d t) := by
  have hbits := h.pendBits
  by_cases hle : d ≤ t.pendBits.toNat
  · rw [extractCarry_pending hle, extractCarry_pending (hbits ▸ hle), hbits, h.pendVal]
    exact ⟨rfl, h.keepPending ..⟩
  · by_cases hzero : t.pendBits.toNat = 0
    · rw [extractCarry_fresh hd hzero, extractCarry_fresh hd (hbits ▸ hzero)]
      exact readChunk_keepPending_endAlike h (topBits · d) _
    · have hlt := Nat.lt_of_not_le hle
      rw [extractCarry_straddle hzero hlt, extractCarry_straddle (hbits ▸ hzero) (hbits ▸ hlt), hbits, h.pendVal]
      exact readChunk_keepPending_endAlike h (t.pendVal <<< (d - t.pendBits.toNat) ||| topBits · _) _

theorem extract_endAlike (mode : ExtractMode) (hd : 1 ≤ d) (h : ExtractAlike s₀ t₀ k s t) :
    EndAlike s₀ t₀ (ChunkAlike s₀ t₀ k) (extract mode d s) (extract mode d t) := by
  cases mode with
  | aligned => exact extractAligned_endAlike h
  | carry => exact extractCarry_endAlike hd h

/-- UNPACK writes equal operands in both runs. -/
theorem unpackFrom_endAlike {mode : ExtractMode} {left : Nat} (hd : 1 ≤ d) (hk : k + left ≤ 9)
    (h : UnpackAlike s₀ t₀ k s t) :
    EndAlike s₀ t₀ (UnpackAlike s₀ t₀ (k + left)) (unpackFrom mode d left k s) (unpackFrom mode d left k t) := by
  induction left generalizing k s t with
  | zero => exact h
  | succ left ih =>
    rw [unpackFrom_succ, unpackFrom_succ, show k + (left + 1) = k + 1 + left by omega]
    refine (extract_endAlike mode hd (h.setK (by omega))).andThen fun r r' ⟨hv, hr⟩ => ?_
    rw [hv]
    exact ih (by omega) (hr.writeOperand r'.1)

end LockstepUnpack

section LockstepReduce
variable {s₀ t₀ s t : State}

/-- The two runs scan in pass 1, at the same cursor. -/
structure ScanAlike (s₀ t₀ s t : State) : Prop extends Lockstep s₀ t₀ (irN s₀.ir + 1) s t where
  cur : s.cur = t.cur

/-- The two runs fold, with equal accumulators. -/
structure FoldAlike (s₀ t₀ s t : State) : Prop extends Lockstep s₀ t₀ (irN s₀.ir + 1) s t where
  acc : s.acc = t.acc

/-- Both runs have a next iteration of pass 1, or neither has. -/
theorem ScanAlike.cur_lt_wlen_iff (h : ScanAlike s₀ t₀ s t) :
    s.cur.val < s.wlen.val ↔ t.cur.val < t.wlen.val := by
  rw [h.cur, h.wlen]

theorem pass1Skip_scanAlike (h : ScanAlike s₀ t₀ s t) : ScanAlike s₀ t₀ (pass1Skip s) (pass1Skip t) := by
  unfold pass1Skip
  by_cases hlt : t.cur.val < t.wlen.val
  · rw [dif_pos hlt, dif_pos (h.cur_lt_wlen_iff.mpr hlt)]
    exact { h with cur := Fin.ext (congrArg (·.val + 1) h.cur) }
  · rwa [dif_neg hlt, dif_neg (h.cur_lt_wlen_iff.not.mpr hlt)]

/-- Closing the gap moves only operands that are in the list (43_evaluators.md R144). -/
theorem closeVal_congr {v w : Vector I64 9} {cur wlen : Fin 9} {m : Nat}
    (h : ∀ (i : Nat) (hi : i < 9), i < m → v[i] = w[i]) (hm : wlen.val < m) (i : Nat) (hi : i < 9) (hlt : i < m) :
    (closeVal v cur wlen)[i] = (closeVal w cur wlen)[i] := by
  by_cases hmoved : cur.val < i ∧ i < wlen.val
  · obtain ⟨hcur, hlen⟩ := hmoved
    rw [closeVal_get_moved (by omega) hcur hlen, closeVal_get_moved (by omega) hcur hlen]
    exact h (i + 1) _ (by omega)
  · have hkept : i ≤ cur.val ∨ wlen.val ≤ i := by omega
    rw [closeVal_get_kept hi hkept, closeVal_get_kept hi hkept]
    exact h i hi hlt

theorem pass1Replace_scanAlike (h : ScanAlike s₀ t₀ s t) (r : Int) :
    ScanAlike s₀ t₀ (pass1Replace r s) (pass1Replace r t) := by
  have hset : ∀ (i : Nat) (hi : i < 9), i < irN s₀.ir + 1 →
      (s.val.set t.cur (BitVec.ofInt 64 r))[i] = (t.val.set t.cur (BitVec.ofInt 64 r))[i] := fun i hi hlt => by
    rw [Vector.getElem_set, Vector.getElem_set, h.val i hi hlt]
  refine { h with wops := ?_, wlen := ?_, wlen_le := ?_, val := ?_ }
  · rw [pass1Replace_wops, pass1Replace_wops, h.wops, h.wlen, h.cur]
  · exact Fin.ext (by rw [pass1Replace_wlen_val, pass1Replace_wlen_val, h.wlen])
  · exact (Nat.sub_le _ _).trans h.wlen_le
  · simp only [pass1Replace_val, h.wlen, h.cur]
    exact closeVal_congr hset (Nat.lt_succ_of_le h.wlen_le)

/-- An iteration of pass 1 sees the pair at the cursor only (43_evaluators.md R144). -/
theorem pass1Reduce_endAlike (f : Int → Int → Except FaultKind Int) (h : ScanAlike s₀ t₀ s t) :
    EndAlike s₀ t₀ (ScanAlike s₀ t₀) (pass1Reduce f s) (pass1Reduce f t) := by
  by_cases hlt : t.cur.val < t.wlen.val
  · have hleft : s.val[t.cur] = t.val[t.cur] := h.val_of_le_wlen hlt.le
    have hright := h.val_of_le_wlen (Nat.succ_le_of_lt hlt)
    simp only [pass1Reduce, h.wlen, h.cur, hlt, dif_pos, hleft, hright]
    cases f (t.val[t.cur]).toInt (t.val[t.cur.val + 1]).toInt with
    | ok r => exact pass1Replace_scanAlike h r
    | error k => exact h.endAlike_raise ..
  · rwa [pass1Reduce, pass1Reduce, dif_neg hlt, dif_neg (h.cur_lt_wlen_iff.not.mpr hlt)]

theorem pass1From_endAlike (steps : Nat) (h : ScanAlike s₀ t₀ s t) :
    EndAlike s₀ t₀ (ScanAlike s₀ t₀) (pass1From steps s) (pass1From steps t) := by
  induction steps generalizing s t with
  | zero => exact h
  | succ steps ih =>
    by_cases hlt : t.cur.val < t.wlen.val
    · rw [pass1From_succ hlt, pass1From_succ (h.cur_lt_wlen_iff.mpr hlt)]
      refine EndAlike.andThen ?_ fun u v huv => ih huv
      simp only [h.wops, h.cur, applyOp_pass1]
      split
      · exact pass1Reduce_endAlike _ h
      · exact pass1Skip_scanAlike h
    · have hdone := Nat.le_of_not_lt hlt
      rwa [pass1From_done hdone, pass1From_done (by rwa [h.cur, h.wlen])]

/-- Pass 1 sets its cursor itself. -/
theorem reduceHigh_endAlike (mode : EvalMode) (h : Lockstep s₀ t₀ (irN s₀.ir + 1) s t) :
    EndAlike s₀ t₀ (Lockstep s₀ t₀ (irN s₀.ir + 1)) (reduceHigh mode s) (reduceHigh mode t) := by
  cases mode with
  | p2 => exact h
  | gen => exact h
  | prec =>
    rw [reduceHigh, reduceHigh, pass1, pass1, congrArg Fin.val h.wlen]
    refine (pass1From_endAlike _ ?_).mono fun _ _ huv => huv.toLockstep
    exact { h with cur := rfl }

/-- An iteration of the fold sees `ACC` and one operand of the list only (43_evaluators.md R145). -/
theorem foldWith_endAlike (f : Int → Int → Except FaultKind Int) (j : Fin 8) (h : FoldAlike s₀ t₀ s t) :
    EndAlike s₀ t₀ (FoldAlike s₀ t₀) (foldWith f j s) (foldWith f j t) := by
  by_cases hlt : j.val < t.wlen.val
  · rw [foldWith, foldWith, if_pos hlt, if_pos (h.wlen ▸ hlt), h.acc, h.val_of_le_wlen (Nat.succ_le_of_lt hlt)]
    cases f t.acc.toInt (t.val[j.val + 1]).toInt with
    | ok r => exact { h with acc := rfl }
    | error k => exact h.endAlike_raise ..
  · rwa [foldWith, foldWith, if_neg hlt, if_neg (h.wlen ▸ hlt)]

theorem foldFrom_endAlike (left j : Nat) (h : FoldAlike s₀ t₀ s t) :
    EndAlike s₀ t₀ (FoldAlike s₀ t₀) (foldFrom left j s) (foldFrom left j t) := by
  induction left generalizing j s t with
  | zero => exact h
  | succ left ih =>
    rw [foldFrom_succ, foldFrom_succ, h.wops]
    exact (foldWith_endAlike _ _ h).andThen fun u v huv => ih (j + 1) huv

/-- The fold sets `ACC` itself. -/
theorem fold_endAlike (h : Lockstep s₀ t₀ (irN s₀.ir + 1) s t) :
    EndAlike s₀ t₀ (FoldAlike s₀ t₀) (fold s) (fold t) := by
  rw [fold, fold, congrArg Fin.val h.wlen]
  exact foldFrom_endAlike _ 0 { h with acc := h.val_of_le_wlen (Nat.zero_le _) }

end LockstepReduce

section LockstepEvaluation
variable {s t : State}

/-- A failed check is the same fault in both runs, before any read (43_evaluators.md R140). -/
theorem clearResult_raise_endAlike (f : FaultKind) :
    EndAlike s t (SameOutcome s t) (raise f (clearResult s)) (raise f (clearResult t)) where
  keeps := ⟨rfl, rfl, rfl, rfl, rfl, rfl⟩
  status := rfl
  resValid := rfl
  rdcnt := rfl
  res := nofun
  taken := ⟨0, rfl, rfl⟩

variable (hir : s.ir = t.ir) (hsrc : ∀ p, sourceAt s.src (s.src.pos + p) = sourceAt t.src (t.src.pos + p))
include hir hsrc

/-- After the checks nothing is written yet: UNPACK starts with no equal operand, and needs none. -/
theorem startUnpack_unpackAlike :
    UnpackAlike s t 0 (startUnpack (clearResult s)) (startUnpack (clearResult t)) where
  keeps := ⟨rfl, rfl, rfl, rfl, rfl, rfl⟩
  noResult_left := rfl
  noResult_right := rfl
  rdcnt := rfl
  taken := ⟨0, rfl, rfl⟩
  upcoming := hsrc
  wops := congrArg Ir.op hir
  wlen := Fin.ext (congrArg irN hir)
  wlen_le := (congrArg irN hir).ge
  val _ _ h := absurd h (Nat.not_lt_zero _)
  pendBits := rfl
  pendVal := rfl
  work := rfl

theorem evalBody_endAlike (mode : EvalMode) :
    EndAlike s t (SameOutcome s t) (evalBody mode (clearResult s)) (evalBody mode (clearResult t)) := by
  have hcount : 0 + (irN s.ir + 1) ≤ 9 := by
    have hn := irN_le s.ir
    omega
  rw [evalBody, evalBody, clearResult_ir, clearResult_ir, ← hir]
  have hunpack := unpackFrom_endAlike (mode := extractModeOf mode) (one_le_irD s.ir) hcount
    (startUnpack_unpackAlike hir hsrc)
  rw [Nat.zero_add] at hunpack
  exact hunpack.andThen fun _ _ h => (reduceHigh_endAlike mode h.toLockstep).andThen fun _ _ h =>
    (fold_endAlike h).andThen fun _ _ h => h.writeResult h.acc

/-- The checks see `IR` only (43_evaluators.md R140). -/
theorem eval_endAlike (mode : EvalMode) : EndAlike s t (SameOutcome s t) (eval mode s) (eval mode t) := by
  rw [eval, eval, hir]
  split
  · exact clearResult_raise_endAlike _
  · split
    · exact clearResult_raise_endAlike _
    · exact evalBody_endAlike hir hsrc mode

/-- Equal `IR` and equal upcoming source content give one outcome (43_evaluators.md R150), and the evaluation that
gives it changes nothing that evaluations keep (R148). -/
theorem exec_eval_sameOutcome {i : Instr} {u v : State} (hi : isEval i = true) (hu : exec i s = .next u)
    (hv : exec i t = .next v) : SameOutcome s t u v := by
  obtain ⟨mode, rfl⟩ := isEval_eq_true hi
  rw [exec_evalInstr] at hu hv
  exact (eval_endAlike hir hsrc mode).sameOutcome hu hv

end LockstepEvaluation

/-- Settles O51: a state beside itself runs in lockstep. -/
theorem evalNeverTouchesInstruction : Obligations.EvalNeverTouchesInstruction := by
  unfold Obligations.EvalNeverTouchesInstruction
  intro i s t hi hnext
  exact (exec_eval_sameOutcome rfl (fun _ => rfl) hi hnext hnext).keeps

/-- Settles O58: the two evaluations have one outcome, for which they took equally many responses. -/
theorem evalForgetsThePast : Obligations.EvalForgetsThePast := by
  unfold Obligations.EvalForgetsThePast
  intro i s t u v hi hir hsrc hu hv
  have h := exec_eval_sameOutcome hir hsrc hi hu hv
  obtain ⟨r, hs, ht⟩ := h.taken
  exact ⟨h.status, h.resValid, h.rdcnt, h.res, by omega⟩

end Sys2Proof.Machine
end

section
/-! The read faults of an evaluation and the fault of its dimension check (60_exceptions.md R174, R175). UNPACK is said
once for both of its endings: it has read chunks only, and it fails exactly as a read after them fails. -/

namespace Sys2Proof.Machine

section Sources

/-- A read sees the content of the source and the position. -/
theorem sourceAt_congr {src src' : Source} (hlisted : src.listed = src'.listed) (htail : src.tail = src'.tail)
    (p : Nat) : sourceAt src p = sourceAt src' p := by
  rw [sourceAt, sourceAt, hlisted, htail]

theorem sourceAt_of_chunksAt {src : Source} {p count i : Nat} {chunks : List Chunk}
    (h : chunksAt src p count = some chunks) (hi : i < count) : ∃ v, sourceAt src (p + i) = .chunk v := by
  induction count generalizing p i chunks with
  | zero => exact absurd hi (Nat.not_lt_zero i)
  | succ count ih =>
    rw [chunksAt] at h
    split at h
    next v hv =>
      cases i with
      | zero => exact ⟨v, hv⟩
      | succ i =>
        obtain ⟨vs, hvs, _⟩ := Option.map_eq_some_iff.mp h
        rw [show p + (i + 1) = p + 1 + i by omega]
        exact ih hvs (Nat.lt_of_succ_lt_succ hi)
    next => cases h

end Sources

section Reading
variable {s t u : State} {mode : ExtractMode} {d r good : Nat}

/-- An evaluation begun in `s` stands at `t` in its unpack phase: it has read `r` responses, all of them chunks, and
nothing that an unfinished evaluation leaves alone has changed. -/
structure HasRead (s t : State) (r : Nat) : Prop where
  reads : ChunksRead s t r
  chunks : ∀ i < r, ∃ v, sourceAt s.src (s.src.pos + i) = .chunk v
  res : t.res = s.res
  resValid : t.resValid = s.resValid
  keeps : evalKeeps s t

theorem hasRead_startUnpack (s : State) : HasRead s (startUnpack s) 0 where
  reads := by simp [ChunksRead]
  chunks _ hi := absurd hi (Nat.not_lt_zero _)
  res := rfl
  resValid := rfl
  keeps := ⟨rfl, rfl, rfl, rfl, rfl, rfl⟩

theorem HasRead.setK (h : HasRead s t r) (k : Nat) : HasRead s (setK k t) r := { h with }

theorem HasRead.writeOperand (h : HasRead s t r) (v : Chunk) : HasRead s (writeOperand v t) r := { h with }

/-- The next read answers what stands `r` positions after the start. -/
theorem HasRead.sourceAt_pos (h : HasRead s t r) : sourceAt t.src t.src.pos = sourceAt s.src (s.src.pos + r) := by
  obtain ⟨_, _, _, _, hlisted, htail⟩ := h.keeps
  obtain ⟨hpos, _⟩ := h.reads
  rw [hpos, sourceAt_congr hlisted htail]

theorem HasRead.readChunk {v : Chunk} (h : HasRead s t r) (hread : readChunk t = .ok (v, u)) :
    HasRead s u (r + 1) := by
  obtain ⟨hv, rfl⟩ := readChunk_eq_ok.mp hread
  refine { h with reads := h.reads.countRead_advance, chunks := fun i hi => ?_ }
  rcases Nat.lt_succ_iff_lt_or_eq.mp hi with hlt | rfl
  · exact h.chunks i hlt
  · exact ⟨v, h.sourceAt_pos.symm.trans hv⟩

/-- A response that is no chunk is not passed. -/
theorem HasRead.le_of_not_chunk (h : HasRead s t r) (hstop : ∀ v, sourceAt s.src (s.src.pos + good) ≠ .chunk v) :
    r ≤ good := by
  by_contra hlt
  obtain ⟨v, hv⟩ := h.chunks good (Nat.lt_of_not_le hlt)
  exact hstop v hv

/-- A read that fails is not one of a good response. -/
theorem HasRead.le_of_readChunk_error {e : Halt} (h : HasRead s t r) (hread : Machine.readChunk t = .error e)
    (hgood : goodReads s good) : good ≤ r := by
  by_contra hlt
  obtain ⟨_, hchunks⟩ := hgood
  obtain ⟨v, hv⟩ := sourceAt_of_chunksAt hchunks (Nat.lt_of_not_le hlt)
  rw [readChunk_chunk (h.sourceAt_pos.trans hv)] at hread
  cases hread

/-- A successful extraction is at most one read and then a write of the unpacker's registers (41_unpacker.md R102,
R104). -/
theorem extract_eq_ok_reads {v : Chunk} (hpos : 1 ≤ d) (hd : d ≤ 16) (h : extract mode d s = .ok (v, t)) :
    ∃ u, (u = s ∨ ∃ c, readChunk s = .ok (c, u)) ∧
      t = { u with pendBits := t.pendBits, pendVal := t.pendVal, work := t.work } := by
  cases mode with
  | aligned =>
    obtain ⟨w, hrefill, ht⟩ := andThen_eq_ok.mp h
    cases ht
    rw [refillWork] at hrefill
    split at hrefill
    · obtain ⟨⟨c, u⟩, hread, hw⟩ := andThen_eq_ok.mp hrefill
      cases hw
      exact ⟨u, .inr ⟨c, hread⟩, rfl⟩
    · cases hrefill
      exact ⟨s, .inl rfl, rfl⟩
  | carry =>
    obtain ⟨c, u, hu, rfl⟩ := extractCarry_eq_ok_keepPending hpos hd h
    exact ⟨u, hu.imp And.right fun hread => ⟨c, hread⟩, rfl⟩

theorem HasRead.extract {v : Chunk} (h : HasRead s t r) (hpos : 1 ≤ d) (hd : d ≤ 16)
    (hx : extract mode d t = .ok (v, u)) : ∃ r', HasRead s u r' := by
  obtain ⟨w, hw, hu⟩ := extract_eq_ok_reads hpos hd hx
  rw [hu]
  rcases hw with rfl | ⟨c, hread⟩
  · exact ⟨r, { h with }⟩
  · exact ⟨r + 1, { h.readChunk hread with }⟩

/-- UNPACK ends after reading chunks only, in success or as the next read fails. -/
theorem HasRead.unpackFrom_cases (h : HasRead s t r) (hpos : 1 ≤ d) (hd : d ≤ 16) (left k : Nat) :
    (∃ u r', unpackFrom mode d left k t = .ok u ∧ HasRead s u r') ∨
      ∃ u r' e, unpackFrom mode d left k t = .error e ∧ Machine.readChunk u = .error e ∧ HasRead s u r' := by
  induction left generalizing k t r with
  | zero => exact .inl ⟨t, r, rfl, h⟩
  | succ left ih =>
    rw [unpackFrom_succ]
    cases hx : Machine.extract mode d (Machine.setK k t) with
    | error e => exact .inr ⟨_, r, e, rfl, extract_error hx, h.setK k⟩
    | ok vu =>
      obtain ⟨r', hu⟩ := (h.setK k).extract hpos hd hx
      exact ih (hu.writeOperand vu.1) (k + 1)

end Reading

section ReadFaults
variable {mode : EvalMode} {s u : State} {good : Nat}

/-- The dimension check of EVAL_P2 is what the aligned mode needs. -/
theorem mod_irD_of_aligned (hdvd : mode = .p2 → 16 % irD s.ir = 0) (h : extractModeOf mode = .aligned) :
    16 % irD s.ir = 0 := by
  cases mode with
  | p2 => exact hdvd rfl
  | gen => cases h
  | prec => cases h

/-- An UNPACK that succeeds has read every chunk of the Instruction (20_memory.md R47). -/
theorem unpack_endsIn_chunksRead (hdvd : mode = .p2 → 16 % irD s.ir = 0) :
    EndsIn (fun t => ChunksRead s t (chunkCount (irN s.ir) (irD s.ir)))
      (unpack (extractModeOf mode) (irN s.ir) (irD s.ir) (startUnpack s)) := by
  have hcount : 0 + (irN s.ir + 1) ≤ 9 := by
    have hn := irN_le s.ir
    omega
  refine (unpackFrom_endsIn_unpackedTo (one_le_irD s.ir) (irD_le s.ir) (mod_irD_of_aligned hdvd) hcount
    (unpackedTo_startUnpack _ _ s)).mono fun t ht => ?_
  rw [chunkCount_eq_chunksFor, ← Nat.zero_add (irN s.ir + 1)]
  exact ht.reads

/-- UNPACK fails as the read of the first response that is no chunk, when an operand needs it. -/
theorem unpack_error_of_not_chunk (hdvd : mode = .p2 → 16 % irD s.ir = 0)
    (hlt : good < chunkCount (irN s.ir) (irD s.ir)) (hgood : goodReads s good)
    (hstop : ∀ v, sourceAt s.src (s.src.pos + good) ≠ .chunk v) :
    ∃ u e, unpack (extractModeOf mode) (irN s.ir) (irD s.ir) (startUnpack s) = .error e ∧
      readChunk u = .error e ∧ HasRead s u good := by
  rcases (hasRead_startUnpack s).unpackFrom_cases (mode := extractModeOf mode) (one_le_irD s.ir) (irD_le s.ir)
    (irN s.ir + 1) 0 with ⟨u, r, hrun, hu⟩ | ⟨u, r, e, hrun, hread, hu⟩
  · obtain ⟨hpos, _⟩ := hu.reads
    have hall := unpack_endsIn_chunksRead hdvd
    rw [unpack, hrun] at hall
    obtain ⟨hpos', _⟩ := hall
    have hle := hu.le_of_not_chunk hstop
    omega
  · obtain rfl : r = good := le_antisymm (hu.le_of_not_chunk hstop) (hu.le_of_readChunk_error hread hgood)
    exact ⟨u, e, hrun, hread, hu⟩

/-- An evaluation ends as its first failing read does, whatever that read's answer is. -/
theorem eval_error_of_not_chunk (hvalid : s.ir.valid = true) (hdvd : mode = .p2 → 16 % irD s.ir = 0)
    (hlt : good < chunkCount (irN s.ir) (irD s.ir)) (hgood : goodReads s good)
    (hstop : ∀ v, sourceAt s.src (s.src.pos + good) ≠ .chunk v) :
    ∃ u e, eval mode s = .error e ∧ readChunk u = .error e ∧ HasRead (clearResult s) u good := by
  obtain ⟨u, e, hunpack, hread, hu⟩ := unpack_error_of_not_chunk (s := clearResult s) hdvd hlt hgood hstop
  refine ⟨u, e, ?_, hread, hu⟩
  rw [eval_checked hvalid hdvd, evalBody, hunpack, andThen_error]

/-- A fault taken after `good` reads, as the host sees it (60_exceptions.md R181). -/
theorem HasRead.evalFaulted_takeFault (h : HasRead (clearResult s) u good)
    (hlt : good < chunkCount (irN s.ir) (irD s.ir)) (f : FaultKind) :
    evalFaulted s (takeFault f u) f good good := by
  have hle := chunkCount_ir_le s.ir
  obtain ⟨hpos, hcnt⟩ := h.reads
  refine ⟨rfl, rfl, h.resValid, h.res, ?_, hpos, h.keeps⟩
  rw [takeFault_rdcnt, hcnt, clearResult_rdcnt, BitVec.ofNat_eq_ofNat, BitVec.zero_add, BitVec.toNat_ofNat]
  exact Nat.mod_eq_of_lt (by omega)

end ReadFaults

/-- Settles O47: none of these dimensions divides 16, so the check comes out before any read. -/
theorem evalP2RejectsUnsupportedDimension : Obligations.EvalP2RejectsUnsupportedDimension := by
  unfold Obligations.EvalP2RejectsUnsupportedDimension
  intro s hvalid hd
  have hmod : ∀ d ∈ [3, 5, 6, 7, 9, 10, 11, 12, 13, 14, 15], 16 % d ≠ 0 := by decide
  change exec (evalInstr .p2) s = _
  rw [exec_evalInstr, eval_unsupported hvalid (hmod _ hd), finish_raise]
  rfl

/-- Settles O48: the evaluation ends as the read that finds the end of input, which consumes nothing. -/
theorem evalShortSourceIsExhausted : Obligations.EvalShortSourceIsExhausted := by
  unfold Obligations.EvalShortSourceIsExhausted
  intro mode s good hvalid hdvd hlt hgood hend
  have hstop : ∀ v, sourceAt s.src (s.src.pos + good) ≠ .chunk v := fun v hv => by
    rw [hend] at hv
    cases hv
  obtain ⟨u, e, heval, hread, hu⟩ := eval_error_of_not_chunk hvalid hdvd hlt hgood hstop
  rw [readChunk_endOfInput (hu.sourceAt_pos.trans hend)] at hread
  cases hread
  refine ⟨takeFault .streamExhausted u, ?_, hu.evalFaulted_takeFault hlt _⟩
  rw [exec_evalInstr, heval, finish_raised]

end Sys2Proof.Machine
end

section
/-! `RES` and `RES_VALID` over an evaluation (70_reset_and_hazards.md R210): no phase before the return writes either
of them, in success or in a fault, so a fault leaves the last good result and the `RES_VALID` of 0 that the evaluation
began with. -/

namespace Sys2Proof.Machine

section SameResult
variable {s t u : State} {P Q : State → Prop} {r : Except Halt State}

/-- From `s` to `t` neither `RES` nor `RES_VALID` was written. -/
structure SameResult (s t : State) : Prop where
  res : t.res = s.res
  resValid : t.resValid = s.resValid

theorem SameResult.refl (s : State) : SameResult s s := ⟨rfl, rfl⟩

/-- The reducer's registers hold no result. -/
theorem SameResult.of_outsideReducer (h : SameResult s t) (hu : outsideReducer u = outsideReducer t) :
    SameResult s u where
  res := (congrArg State.res hu :).trans h.res
  resValid := (congrArg State.resValid hu :).trans h.resValid

/-- A part of an evaluation begun in `s` ends in a state with `P`, or in a fault taken before any result was written
(60_exceptions.md R181), or in a read that is never answered. -/
def FaultKeepsResult (s : State) (P : State → Prop) : Except Halt State → Prop
  | .ok t => P t
  | .error (.raised t) => SameResult s t ∧ t.status ≠ statusOk
  | .error .silent => True

theorem SameResult.faultKeepsResult_raise (h : SameResult s t) (f : FaultKind) :
    FaultKeepsResult s P (raise f t) :=
  ⟨⟨h.res, h.resValid⟩, f.code_ne_statusOk⟩

/-- The rule of sequencing. -/
theorem FaultKeepsResult.andThen {f : State → Except Halt State} (hr : FaultKeepsResult s P r)
    (hf : ∀ t, P t → FaultKeepsResult s Q (f t)) : FaultKeepsResult s Q (andThen r f) := by
  match r with
  | .ok t => exact hf t hr
  | .error (.raised _) => exact hr
  | .error .silent => trivial

end SameResult

section Phases
variable {s t : State}

/-- A failing read is the end of input, or a malformed response, or is never answered (20_memory.md R41). -/
theorem readChunk_error_faultKeepsResult {P : State → Prop} {e : Halt} (h : SameResult s t)
    (hread : readChunk t = .error e) : FaultKeepsResult s P (.error e) := by
  rcases readChunk_cases t with ⟨_, _, hrun⟩ | ⟨_, hrun⟩ | ⟨_, hrun⟩ | ⟨_, hrun⟩ <;> cases hrun.symm.trans hread
  · exact SameResult.faultKeepsResult_raise (t := advance t) ⟨h.res, h.resValid⟩ _
  · exact h.faultKeepsResult_raise _
  · trivial

/-- UNPACK reads chunks, and a fault in it is that of a read (41_unpacker.md R101). -/
theorem unpack_faultKeepsResult (mode : ExtractMode) (s : State) :
    FaultKeepsResult s (SameResult s) (unpack mode (irN s.ir) (irD s.ir) (startUnpack s)) := by
  rcases (hasRead_startUnpack s).unpackFrom_cases (mode := mode) (one_le_irD s.ir) (irD_le s.ir) (irN s.ir + 1) 0 with
    ⟨t, _, hrun, ht⟩ | ⟨t, _, e, hrun, hread, ht⟩ <;> rw [unpack, hrun]
  · exact ⟨ht.res, ht.resValid⟩
  · exact readChunk_error_faultKeepsResult ⟨ht.res, ht.resValid⟩ hread

/-- A failing operator takes its fault in the state it was applied to (43_evaluators.md R144, R145). -/
theorem applyOp_error {op : Op} {site : AluSite} {e : Halt} (h : applyOp op site s = .error e) :
    ∃ f, e = .raised (takeFault f s) := by
  cases site with
  | pass1 =>
    rw [applyOp_pass1] at h
    split at h
    · rcases pass1Reduce_cases (alu op) s with ⟨_, hrun⟩ | ⟨_, ⟨_, _, hrun⟩ | ⟨f, _, hrun⟩⟩ <;> cases hrun.symm.trans h
      exact ⟨f, rfl⟩
    · cases h
  | fold j =>
    rw [applyOp_fold] at h
    rcases foldWith_cases (alu op) j s with ⟨_, hrun⟩ | ⟨_, _, _, hrun⟩ | ⟨_, f, _, hrun⟩ <;> cases hrun.symm.trans h
    exact ⟨f, rfl⟩

theorem applyOp_faultKeepsResult (op : Op) (site : AluSite) (h : SameResult s t) :
    FaultKeepsResult s (SameResult s) (applyOp op site t) := by
  cases hrun : applyOp op site t with
  | ok u =>
    have hframe := applyOp_endsIn_outsideReducer op site t
    rw [hrun] at hframe
    exact h.of_outsideReducer hframe
  | error e =>
    obtain ⟨f, rfl⟩ := applyOp_error hrun
    exact h.faultKeepsResult_raise f

theorem pass1From_faultKeepsResult (steps : Nat) (h : SameResult s t) :
    FaultKeepsResult s (SameResult s) (pass1From steps t) := by
  induction steps generalizing t with
  | zero => exact h
  | succ steps ih =>
    by_cases hlt : t.cur.val < t.wlen.val
    · rw [pass1From_succ hlt]
      exact (applyOp_faultKeepsResult _ _ h).andThen fun _ hu => ih hu
    · rwa [pass1From_done (Nat.le_of_not_lt hlt)]

theorem foldFrom_faultKeepsResult (left j : Nat) (h : SameResult s t) :
    FaultKeepsResult s (SameResult s) (foldFrom left j t) := by
  induction left generalizing j t with
  | zero => exact h
  | succ left ih => exact (applyOp_faultKeepsResult _ _ h).andThen fun _ hu => ih (j + 1) hu

theorem reduceHigh_faultKeepsResult (mode : EvalMode) (h : SameResult s t) :
    FaultKeepsResult s (SameResult s) (reduceHigh mode t) := by
  cases mode with
  | p2 => exact h
  | gen => exact h
  | prec => exact pass1From_faultKeepsResult _ ⟨h.res, h.resValid⟩

theorem fold_faultKeepsResult (h : SameResult s t) : FaultKeepsResult s (SameResult s) (fold t) :=
  foldFrom_faultKeepsResult _ 0 ⟨h.res, h.resValid⟩

end Phases

section Outcome

/-- Only an evaluation that returns its accumulator writes a result (43_evaluators.md R140). -/
theorem evalBody_faultKeepsResult (mode : EvalMode) (s : State) :
    FaultKeepsResult s (fun t => ∃ u, t = writeResult u) (evalBody mode s) :=
  (unpack_faultKeepsResult (extractModeOf mode) s).andThen fun _ ht =>
    (reduceHigh_faultKeepsResult mode ht).andThen fun _ hu => (fold_faultKeepsResult hu).andThen fun v _ => ⟨v, rfl⟩

/-- `RES_VALID` is cleared before the checks, so that a failed check leaves what any other fault does
(43_evaluators.md R140). -/
theorem eval_faultKeepsResult (mode : EvalMode) (s : State) :
    FaultKeepsResult (clearResult s) (fun t => ∃ u, t = writeResult u) (eval mode s) := by
  have hclear := SameResult.refl (clearResult s)
  rcases eval_cases mode s with ⟨_, h⟩ | ⟨_, _, _, h⟩ | ⟨_, _, h⟩ <;> rw [h]
  · exact hclear.faultKeepsResult_raise _
  · exact hclear.faultKeepsResult_raise _
  · exact evalBody_faultKeepsResult mode (clearResult s)

/-- An evaluation that answers a next state has returned a result, or has faulted with the result cleared
(43_evaluators.md R140, 60_exceptions.md R181). -/
theorem exec_eval_returns_or_faults {i : Instr} {s t : State} (hi : isEval i = true) (hnext : exec i s = .next t) :
    (∃ u, t = writeResult u) ∨ (t.res = s.res ∧ t.resValid = false ∧ t.status ≠ statusOk) := by
  obtain ⟨mode, rfl⟩ := isEval_eq_true hi
  rw [exec_evalInstr] at hnext
  have hends := eval_faultKeepsResult mode s
  rcases finish_eq_next.mp hnext with hrun | hrun <;> rw [hrun] at hends
  · exact .inl hends
  · obtain ⟨⟨hres, hvalid⟩, hstatus⟩ := hends
    exact .inr ⟨hres, hvalid, hstatus⟩

end Outcome

/-- Settles O52, by the two endings of an evaluation: a return writes `RES_VALID` 1 and `STATUS` OK together, and a
fault leaves `RES` and the cleared `RES_VALID`. -/
theorem faultedEvalLeavesStaleResult : Obligations.FaultedEvalLeavesStaleResult := by
  unfold Obligations.FaultedEvalLeavesStaleResult
  intro i s t hi hnext
  rcases exec_eval_returns_or_faults hi hnext with ⟨u, rfl⟩ | ⟨hres, hvalid, hstatus⟩
  · exact ⟨nofun, iff_of_true rfl rfl⟩
  · exact ⟨fun _ => hres, iff_of_false (hvalid ▸ Bool.false_ne_true) hstatus⟩

end Sys2Proof.Machine
end

section
/-! The encoding round trips and the layout table (30_encoding.md R61 to R71). DEC's closed form and the table of the
eight layouts are compared through one form of a layout that is the same for every operator count. -/

namespace Sys2Proof.Machine

/-- Settles O10, one constructor at a time. -/
theorem decodeInvertsEncode : Obligations.DecodeInvertsEncode := by
  unfold Obligations.DecodeInvertsEncode
  intro i
  cases i with
  | dec w => exact Laws.RoundTrip.dec w
  | evalP2 => exact Laws.RoundTrip.evalP2
  | evalGen => exact Laws.RoundTrip.evalGen
  | evalPrec => exact Laws.RoundTrip.evalPrec
  | enc n d tok => exact Laws.RoundTrip.enc n d tok
  | cmdReserved5 => exact Laws.RoundTrip.cmdReserved5
  | cmdReserved6 => exact Laws.RoundTrip.cmdReserved6
  | cmdReserved7 => exact Laws.RoundTrip.cmdReserved7
  | zeroWord => exact Laws.RoundTrip.zeroWord
  | expr1 a dm1 pad => exact Laws.RoundTrip.expr1 a dm1 pad
  | expr2 a b dm1 pad => exact Laws.RoundTrip.expr2 a b dm1 pad
  | expr3 a b c dm1 pad => exact Laws.RoundTrip.expr3 a b c dm1 pad
  | expr4 a b c d dm1 pad => exact Laws.RoundTrip.expr4 a b c d dm1 pad
  | expr5 a b c d e dm1 pad => exact Laws.RoundTrip.expr5 a b c d e dm1 pad
  | expr6 a b c d e f dm1 pad => exact Laws.RoundTrip.expr6 a b c d e f dm1 pad
  | expr7 a b c d e f g dm1 pad => exact Laws.RoundTrip.expr7 a b c d e f g dm1 pad
  | expr8 a b c d e f g h dm1 pad => exact Laws.RoundTrip.expr8 a b c d e f g h dm1 pad
  | add site => exact Laws.RoundTrip.add site
  | sub site => exact Laws.RoundTrip.sub site
  | mul site => exact Laws.RoundTrip.mul site
  | div site => exact Laws.RoundTrip.div site
  | tokAdd i => exact Laws.RoundTrip.tokAdd i
  | tokSub i => exact Laws.RoundTrip.tokSub i
  | tokMul i => exact Laws.RoundTrip.tokMul i
  | tokDiv i => exact Laws.RoundTrip.tokDiv i

section Layouts

/-- The code of the operator in a place is the two bits of that place. -/
@[simp] theorem code_opAt (w : Word32) (lo : Nat) : (opAt w lo).code = w.extractLsb' lo 2 := Op.code_ofCode _

theorem bitVec3_cases (x : BitVec 3) :
    x = 0#3 ∨ x = 1#3 ∨ x = 2#3 ∨ x = 3#3 ∨ x = 4#3 ∨ x = 5#3 ∨ x = 6#3 ∨ x = 7#3 := by
  revert x
  decide

/-- The field below a slice of a word extends the slice. -/
theorem slice_append {w : Word32} {lo mid n len : Nat} {x : BitVec n} (hmid : mid = lo + len)
    (hx : x = w.extractLsb' mid n) : x ++ w.extractLsb' lo len = w.extractLsb' lo (n + len) := by
  rw [hx, BitVec.extractLsb'_append_extractLsb'_eq_extractLsb' hmid]

/-- The fields of the layout that a word decodes to, put side by side, are the word. -/
theorem encode_decodeWord (w : Word32) : encode (decodeWord w) = .word w := by
  by_cases h : w = 0
  · rw [h]
    rfl
  rw [decodeWord, if_neg h]
  rcases bitVec3_cases (w.extractLsb' 29 3) with hn | hn | hn | hn | hn | hn | hn | hn
  all_goals
    simp only [hn, encode, code_opAt, if_true, if_false, BitVec.reduceEq]
    refine congrArg Coded.word (Eq.trans ?_ BitVec.extractLsb'_eq_self)
    repeat refine slice_append rfl ?_
    exact hn.symm

/-- The all-zero EXPR1, whose word is 0, is decoded from no word: 0 is matched before EXPR1 (30_encoding.md R67). -/
theorem wellFormed_decodeWord (w : Word32) : (decodeWord w).wellFormed = true := by
  by_contra hill
  have hword := encode_decodeWord w
  cases hi : decodeWord w with
  | expr1 op0 dm1 pad =>
    rw [hi] at hill hword
    obtain ⟨⟨rfl, rfl⟩, rfl⟩ : (op0 = .add ∧ dm1 = 0) ∧ pad = 0 := by simpa [Instr.wellFormed] using hill
    obtain rfl : 0 = w := Coded.word.inj hword
    cases hi
  | _ => exact hill (by rw [hi]; rfl)

/-- `N` as bits 31:29 of a word give it (30_encoding.md R61). -/
def wordN (w : Word32) : Nat := (w.extractLsb' 29 3).toNat + 1

/-- What a nonzero word loads, in one form for the eight layouts of R62: the count, the dimension field below the
operators, and the operators from the top down. -/
def layoutIr (w : Word32) : Ir :=
  wordIr (w.extractLsb' 29 3) (w.extractLsb' (25 - 2 * wordN w) 4)
    ((List.range (wordN w)).map fun i => opAt w (27 - 2 * i))

theorem exec_decodeWord {w : Word32} (h : w ≠ 0) (s : State) :
    exec (decodeWord w) s = .next (loadIr (layoutIr w) s) := by
  rw [decodeWord, if_neg h, layoutIr, wordN]
  rcases bitVec3_cases (w.extractLsb' 29 3) with hn | hn | hn | hn | hn | hn | hn | hn <;> rw [hn] <;> rfl

theorem slotsOf_map_range {n : Nat} (f : Nat → Op) (i : Fin 8) :
    (slotsOf ((List.range n).map f))[i] = if i.val < n then (f i.val).code else 0 := by
  rw [slotsOf_get]
  by_cases hi : i.val < n <;> simp [hi]

/-- The closed form of DEC (40_codec.md R80) takes the fields of the layout. -/
theorem decIr_eq_layoutIr (w : Word32) : decIr w = layoutIr w := by
  refine congrArg (Ir.mk true _ _) (Vector.ext fun i hi => ?_)
  have hslot := slotsOf_map_range (n := wordN w) (fun i => opAt w (27 - 2 * i)) ⟨i, hi⟩
  rw [code_opAt] at hslot
  rw [Vector.getElem_ofFn]
  exact hslot.symm

theorem exec_dec_zero (s : State) : exec (.dec 0) s = .next (takeFault .outOfRange s) := rfl

theorem exec_dec {w : Word32} (h : w ≠ 0) (s : State) : exec (.dec w) s = .next (loadIr (decIr w) s) := if_neg h

theorem exec_dec_eq_exec_decodeWord (w : Word32) (s : State) : exec (.dec w) s = exec (decodeWord w) s := by
  by_cases h : w = 0
  · rw [h]
    rfl
  · rw [exec_dec h, exec_decodeWord h, decIr_eq_layoutIr]

end Layouts

/-- Settles O11: the layout keeps every bit, and no word decodes to the all-zero EXPR1. -/
theorem encodeInvertsDecodeOfWords : Obligations.EncodeInvertsDecodeOfWords := fun w =>
  ⟨encode_decodeWord w, wellFormed_decodeWord w⟩

/-- Settles O15: the zero word faults in both forms, and any other word loads the fields of its layout in both. -/
theorem decAgreesWithLayoutTable : Obligations.DecAgreesWithLayoutTable := fun s w =>
  exec_dec_eq_exec_decodeWord w s

/-- Settles O8: the word is placed as the argument of a DEC. -/
theorem presentedWordRunsAsItsLayout : Obligations.PresentedWordRunsAsItsLayout := fun s w =>
  exec_dec_eq_exec_decodeWord (BitVec.ofNat 32 w) s

end Sys2Proof.Machine
end

section
/-! What a step does, and the commands and table rows that read no operand: the host's actions (10_state.md R10,
70_reset_and_hazards.md R200), the reserved commands (30_encoding.md R69) and the rows of R62, R67 and R71. -/

namespace Sys2Proof.Machine

section Steps
variable {s : State} {rest : List HostAction}

theorem step_command {p : Packet} (h : s.inbox = .command p :: rest) :
    step s = exec (decodePacket p) { s with inbox := rest } := by
  rw [step, fetch, h]

theorem step_reset (h : s.inbox = .reset :: rest) : step s = .next (resetRegs { s with inbox := rest }) := by
  rw [step, fetch, h]

theorem step_present {src : Source} (h : s.inbox = .present src :: rest) :
    step s = .next (presentSource src { s with inbox := rest }) := by
  rw [step, fetch, h]

theorem step_wait (h : s.inbox = []) : step s = .next s := by
  rw [step, fetch, h]

end Steps

/-- Settles O1: `fetch` takes the packet off and `step` runs what it decodes to. -/
theorem stepRunsIssuedCommand : Obligations.StepRunsIssuedCommand := fun _ _ _ h => step_command h

/-- Settles O2: `resetRegs` is `State.reset` with the source and the later actions kept. -/
theorem resetActionRestoresRegisters : Obligations.ResetActionRestoresRegisters := by
  unfold Obligations.ResetActionRestoresRegisters
  intro s rest h
  have hop : ∀ i : Fin 8, State.reset.ir.op[i] = 0 := by decide
  exact ⟨_, step_reset h, rfl, rfl, rfl, rfl, hop, rfl, rfl, rfl, rfl, rfl, rfl, rfl⟩

/-- Settles O3: neither action runs an instruction. -/
theorem sourceAndWaitLeaveBlockAlone : Obligations.SourceAndWaitLeaveBlockAlone := fun _ _ _ =>
  ⟨step_present, step_wait⟩

/-- Settles O4, by evaluating the reset state. -/
theorem resetStateMeetsInvariant : Obligations.ResetStateMeetsInvariant := by
  unfold Obligations.ResetStateMeetsInvariant
  decide

/-- Settles O9, by evaluating the decoder on the sample codes. -/
theorem sampleCodesDecode : Obligations.SampleCodesDecode := by
  unfold Obligations.SampleCodesDecode
  decide

/-- Settles O12: `TokCode` has no operator for such a token. -/
theorem otherTokensAreRejected : Obligations.OtherTokensAreRejected := by
  unfold Obligations.OtherTokensAreRejected
  intro t i ht
  have hnone : tokOp t = none := by
    revert ht
    revert t
    decide
  change decodeToken t i = _
  rw [decodeToken, hnone]

/-- Settles O16: the slots past the layout's operators are 0. -/
theorem wordLayoutsLoadInstruction : Obligations.WordLayoutsLoadInstruction := fun _ _ _ _ _ _ _ _ _ _ =>
  ⟨fun _ _ => rfl, fun _ => rfl, fun _ => rfl, fun _ => rfl, fun _ => rfl, fun _ => rfl, fun _ => rfl, fun _ => rfl⟩

/-- Settles O17: DEC tests for the zero word first, and the row ZERO_WORD is that test's fault. -/
theorem zeroWordRaisesOutOfRange : Obligations.ZeroWordRaisesOutOfRange := fun s => ⟨exec_dec_zero s, rfl⟩

/-- Settles O24: each of the four tokens is recognised, so no fault is taken. -/
theorem tokensStageOperatorCodes : Obligations.TokensStageOperatorCodes := fun _ _ => ⟨rfl, rfl, rfl, rfl⟩

/-- Settles O26: each of the three is the fault `IllegalCommand`. -/
theorem reservedCommandsRaiseIllegalCommand : Obligations.ReservedCommandsRaiseIllegalCommand := fun _ =>
  ⟨rfl, rfl, rfl⟩

/-- Settles O46: the valid bit is the first check, after the result is cleared. -/
theorem evalWithoutInstructionFaults : Obligations.EvalWithoutInstructionFaults := by
  unfold Obligations.EvalWithoutInstructionFaults
  intro mode s h
  rw [exec_evalInstr, eval_noInstruction h, finish_raise]
  rfl

end Sys2Proof.Machine
end

section
/-! The operators at the reducer's two sites (43_evaluators.md R144, R145): the iteration of pass 1 by what the ALU
answers, the loop bounds, and the frame. -/

namespace Sys2Proof.Machine

section Pass1Iteration
variable {op : Op} {s : State} {r : Int} {k : FaultKind}

/-- An Add or Sub in pass 1 is skipped. -/
theorem exec_pass1_of_low (h : isHigh op = false) (s : State) :
    exec (operatorInstr op .pass1) s = .next (pass1Skip s) := by
  rw [exec_operatorInstr, applyOp_pass1, h]
  rfl

theorem pass1Skip_of_le (h : s.wlen.val ≤ s.cur.val) : pass1Skip s = s := dif_neg (Nat.not_lt_of_le h)

/-- A skip writes the cursor only. -/
theorem pass1Skip_frame (s : State) : pass1Skip s = { s with cur := (pass1Skip s).cur } := by
  unfold pass1Skip
  split <;> rfl

theorem pass1Reduce_of_le (f : Int → Int → Except FaultKind Int) (h : s.wlen.val ≤ s.cur.val) :
    pass1Reduce f s = .ok s := dif_neg (Nat.not_lt_of_le h)

variable (h : s.cur.val < s.wlen.val)
include h

/-- A Mul or Div in pass 1 with an ALU result reduces the pair at the cursor. -/
theorem pass1Reduce_of_ok {f : Int → Int → Except FaultKind Int}
    (hf : f (s.val[s.cur]).toInt (s.val[s.cur.val + 1]'(by omega)).toInt = .ok r) :
    pass1Reduce f s = .ok (pass1Replace r s) := by
  rw [pass1Reduce, dif_pos h, hf]

/-- A Mul or Div in pass 1 that the ALU rejects takes the ALU's fault. -/
theorem pass1Reduce_of_error {f : Int → Int → Except FaultKind Int}
    (hf : f (s.val[s.cur]).toInt (s.val[s.cur.val + 1]'(by omega)).toInt = .error k) :
    pass1Reduce f s = raise k s := by
  rw [pass1Reduce, dif_pos h, hf]

/-- What a reduction leaves in every slot once the gap is closed (43_evaluators.md R144). -/
theorem pass1Replace_spec (hlo : -2 ^ 63 ≤ r) (hhi : r ≤ 2 ^ 63 - 1) :
    let t := pass1Replace r s
    (t.val[s.cur]).toInt = r ∧
      (∀ i : Fin 9, i.val < s.cur.val ∨ s.wlen.val ≤ i.val → t.val[i] = s.val[i]) ∧
      (∀ (i : Nat) (hi : i + 1 < 9), s.cur.val < i → i < s.wlen.val → t.val[i] = s.val[i + 1]) ∧
      (∀ i : Fin 8, i.val < s.cur.val ∨ s.wlen.val ≤ i.val + 1 → t.wops[i] = s.wops[i]) ∧
      (∀ (i : Nat) (hi : i + 1 < 8), s.cur.val ≤ i → i + 1 < s.wlen.val → t.wops[i] = s.wops[i + 1]) ∧
      t.wlen.val + 1 = s.wlen.val ∧ t = { s with val := t.val, wops := t.wops, wlen := t.wlen } := by
  refine ⟨?_, fun i hi => ?_, fun i hi hc hw => ?_, fun i hi => closeOps_get_kept i.isLt hi,
    fun i hi hc hw => closeOps_get_moved hi hc hw, ?_, rfl⟩
  · have hkept := closeVal_get_kept (v := s.val.set s.cur (BitVec.ofInt 64 r)) (wlen := s.wlen) s.cur.isLt
      (.inl le_rfl)
    exact (congrArg BitVec.toInt (hkept.trans (Vector.getElem_set_self _))).trans (toInt_ofInt_of_mem hlo hhi)
  · exact (closeVal_get_kept i.isLt (by omega)).trans (Vector.getElem_set_ne _ _ (by omega))
  · exact (closeVal_get_moved hi hc hw).trans (Vector.getElem_set_ne _ _ (by omega))
  · rw [pass1Replace_wlen_val]
    omega

end Pass1Iteration

section FoldIteration
variable {s : State} {j : Fin 8} {f : Int → Int → Except FaultKind Int} {r : Int} {k : FaultKind}

theorem foldWith_of_le (f : Int → Int → Except FaultKind Int) (h : s.wlen.val ≤ j.val) : foldWith f j s = .ok s :=
  if_neg (Nat.not_lt_of_le h)

theorem foldWith_of_ok (h : j.val < s.wlen.val) (hf : f s.acc.toInt (s.val[j.val + 1]).toInt = .ok r) :
    foldWith f j s = .ok { s with acc := BitVec.ofInt 64 r } := by
  rw [foldWith, if_pos h, hf]

theorem foldWith_of_error (h : j.val < s.wlen.val) (hf : f s.acc.toInt (s.val[j.val + 1]).toInt = .error k) :
    foldWith f j s = raise k s := by
  rw [foldWith, if_pos h, hf]

end FoldIteration

/-- Settles O32: pass 1 skips an operator that is neither Mul nor Div. -/
theorem pass1SkipsAddAndSub : Obligations.Pass1SkipsAddAndSub := fun s h =>
  ⟨⟨_, exec_pass1_of_low (op := .add) rfl s, pass1Skip_cur_val s h, pass1Skip_frame s⟩,
    ⟨_, exec_pass1_of_low (op := .sub) rfl s, pass1Skip_cur_val s h, pass1Skip_frame s⟩⟩

/-- Settles O33: the ALU's result is in range, and `pass1Replace` writes it and closes the gap. -/
theorem pass1ReducesMulAndDiv : Obligations.Pass1ReducesMulAndDiv := by
  unfold Obligations.Pass1ReducesMulAndDiv
  intro s i r h a b hi hlo hhi
  refine ⟨pass1Replace r s, ?_, pass1Replace_spec h hlo hhi⟩
  have hnarrow : narrow r = .ok r := narrow_of_mem hlo hhi
  rcases hi with ⟨rfl, rfl⟩ | ⟨rfl, hb, rfl⟩
  · exact congrArg finish (pass1Reduce_of_ok h (f := aluMul) hnarrow)
  · exact congrArg finish (pass1Reduce_of_ok h ((aluDiv_of_ne_zero a hb).trans hnarrow))

/-- Settles O34, by the three pairs the ALU rejects. -/
theorem pass1FaultsOnRejectedPair : Obligations.Pass1FaultsOnRejectedPair := by
  unfold Obligations.Pass1FaultsOnRejectedPair
  intro s h a b
  refine ⟨fun hout => ?_, fun hb => ?_, fun ⟨ha, hb⟩ => ?_⟩
  · exact congrArg finish (pass1Reduce_of_error h (f := aluMul) (narrow_of_not_mem hout))
  · have halu : aluDiv a b = .error .divideByZero := by rw [hb, aluDiv_zero]
    exact congrArg finish (pass1Reduce_of_error h halu)
  · have halu : aluDiv a b = .error .overflow := by rw [ha, hb, aluDiv_min_neg_one]
    exact congrArg finish (pass1Reduce_of_error h halu)

/-- Settles O35: the loop bound is the first test at either site. -/
theorem operatorsPastLoopBoundDoNothing : Obligations.OperatorsPastLoopBoundDoNothing := by
  unfold Obligations.OperatorsPastLoopBoundDoNothing
  intro s op j
  refine ⟨fun h => ?_, fun h => ?_⟩
  · rw [exec_operatorInstr, applyOp_fold, foldWith_of_le _ h, finish_ok]
  · rw [exec_operatorInstr, applyOp_pass1, pass1Reduce_of_le _ h, pass1Skip_of_le h, ite_self, finish_ok]

/-- The faults of the ALU (42_alu.md R120). -/
def IsAluFault (f : FaultKind) : Prop := f = .divideByZero ∨ f = .overflow

/-- Everything an operator can do to `STATUS` and `PHASE`: leave both alone, or take a fault of the ALU in the state it
was applied to. -/
theorem applyOp_cases (op : Op) (site : AluSite) (s : State) :
    (∃ t, applyOp op site s = .ok t ∧ t.status = s.status ∧ t.phase = s.phase) ∨
      ∃ f, IsAluFault f ∧ applyOp op site s = raise f s := by
  cases site with
  | pass1 =>
    rw [applyOp_pass1]
    split
    · rcases pass1Reduce_cases (alu op) s with ⟨_, h⟩ | ⟨_, ⟨_, _, h⟩ | ⟨f, hf, h⟩⟩
      · exact .inl ⟨_, h, rfl, rfl⟩
      · exact .inl ⟨_, h, rfl, rfl⟩
      · exact .inr ⟨f, alu_error hf, h⟩
    · exact .inl ⟨_, rfl, pass1Skip_status s, pass1Skip_phase s⟩
  | fold j =>
    rw [applyOp_fold]
    rcases foldWith_cases (alu op) j s with ⟨_, h⟩ | ⟨_, _, _, h⟩ | ⟨_, f, hf, h⟩
    · exact .inl ⟨_, h, rfl, rfl⟩
    · exact .inl ⟨_, h, rfl, rfl⟩
    · exact .inr ⟨f, alu_error hf, h⟩

/-- Settles O36, by the two endings of an operator. -/
theorem operatorFrame : Obligations.OperatorFrame := by
  unfold Obligations.OperatorFrame
  intro op site s t hnext
  rw [exec_operatorInstr] at hnext
  have hframe := applyOp_endsIn_outsideReducer op site s
  rcases applyOp_cases op site s with ⟨u, hrun, hu⟩ | ⟨f, hf, hrun⟩ <;> rw [hrun] at hframe hnext <;> cases hnext
  · exact ⟨hframe, .inl hu⟩
  · refine ⟨rfl, .inr ?_⟩
    rcases hf with rfl | rfl
    · exact .inl rfl
    · exact .inr rfl

end Sys2Proof.Machine
end

section
/-! The words of the codec as numbers (40_codec.md). What DEC takes from a word is said as quotients and remainders
of its number, in the closed form of R80 and in the shift sequence of R81. -/

namespace Sys2Proof.Machine

section Fields
variable {w : Word32}

theorem extract_toNat (w : Word32) (lo len : Nat) : (w.extractLsb' lo len).toNat = w.toNat / 2 ^ lo % 2 ^ len := by
  rw [BitVec.extractLsb'_toNat, Nat.shiftRight_eq_div_pow]

theorem word_div_lt (w : Word32) : w.toNat / 2 ^ 29 < 8 := Nat.div_lt_of_lt_mul w.isLt

theorem wordNm1_toNat (w : Word32) : (w.extractLsb' 29 3).toNat = w.toNat / 2 ^ 29 := by
  rw [extract_toNat]
  exact Nat.mod_eq_of_lt (word_div_lt w)

theorem wordN_eq (w : Word32) : wordN w = w.toNat / 2 ^ 29 + 1 := by rw [wordN, wordNm1_toNat]

theorem wordN_le (w : Word32) : wordN w ≤ 8 := by
  have hlt := word_div_lt w
  rw [wordN_eq]
  omega

theorem decIr_nm1 (w : Word32) : (decIr w).nm1.toNat + 1 = wordN w := rfl

theorem irN_decIr (w : Word32) : irN (decIr w) = wordN w := rfl

theorem decIr_dm1 (w : Word32) : (decIr w).dm1.toNat = w.toNat / 2 ^ (25 - 2 * wordN w) % 16 := extract_toNat ..

/-- `IR.OP[i]` after DEC (40_codec.md R80, with decision D8 for the unused slots). -/
theorem decIr_op (w : Word32) (i : Fin 8) :
    (decIr w).op[i].toNat = if i.val < wordN w then w.toNat / 2 ^ (27 - 2 * i.val) % 4 else 0 := by
  have hget : (decIr w).op[i] = if i.val < wordN w then w.extractLsb' (27 - 2 * i.val) 2 else 0 :=
    Vector.getElem_ofFn ..
  rw [hget, apply_ite BitVec.toNat, extract_toNat]
  rfl

/-- A field at or above bit `k` is a field of the number above bit `k`. -/
theorem extract_congr {v : Word32} {k lo : Nat} (h : v.toNat / 2 ^ k = w.toNat / 2 ^ k) (hk : k ≤ lo) (len : Nat) :
    v.extractLsb' lo len = w.extractLsb' lo len := by
  apply BitVec.eq_of_toNat_eq
  obtain ⟨m, rfl⟩ := Nat.exists_eq_add_of_le hk
  rw [extract_toNat, extract_toNat, pow_add, ← Nat.div_div_eq_div_mul, ← Nat.div_div_eq_div_mul, h]

/-- Every field that DEC takes stands above the padding (30_encoding.md R66). -/
theorem decIr_congr {v w : Word32}
    (h : v.toNat / 2 ^ (23 - 2 * (w.toNat / 2 ^ 29)) = w.toNat / 2 ^ (23 - 2 * (w.toNat / 2 ^ 29))) :
    decIr v = decIr w := by
  have hlt := word_div_lt w
  have hnm1 : v.extractLsb' 29 3 = w.extractLsb' 29 3 := extract_congr h (by omega) 3
  have hn : wordN v = wordN w := congrArg (·.toNat + 1) hnm1
  have hop : ∀ i < wordN w, v.extractLsb' (27 - 2 * i) 2 = w.extractLsb' (27 - 2 * i) 2 := fun i hi => by
    rw [wordN_eq] at hi
    exact extract_congr h (by omega) 2
  have hdm1 : v.extractLsb' (25 - 2 * wordN w) 4 = w.extractLsb' (25 - 2 * wordN w) 4 := by
    rw [wordN_eq]
    exact extract_congr h (by omega) 4
  rw [decIr_eq_layoutIr, decIr_eq_layoutIr, layoutIr, layoutIr, hn, hnm1, hdm1]
  refine congrArg _ (List.map_congr_left fun i hi => ?_)
  rw [opAt, opAt, hop i (List.mem_range.mp hi)]

end Fields

/-- Settles O13: the closed form of DEC, field by field as numbers. -/
theorem decLoadsWordFields : Obligations.DecLoadsWordFields := by
  unfold Obligations.DecLoadsWordFields
  intro s w hw
  rw [← wordN_eq]
  exact ⟨_, exec_dec hw s, rfl, rfl, decIr_nm1 w, decIr_dm1 w, decIr_op w⟩

/-- Settles O18: DEC loads the same fields from both. -/
theorem decIgnoresPadding : Obligations.DecIgnoresPadding := by
  unfold Obligations.DecIgnoresPadding
  intro s v w hv hw h
  rw [exec_dec hv, exec_dec hw, decIr_congr h]

section ShiftSequence

/-- Step 3 of R81: the codes come out from the top pair of bits of the window down. -/
theorem shiftCodes_eq (raw count t : Nat) :
    shiftCodes raw count t = (List.range count).map fun i => t * 4 ^ i / 2 ^ (2 * raw) % 4 := by
  induction count generalizing t with
  | zero => rfl
  | succ count ih =>
    have hhead : (t &&& (3 <<< (2 * raw))) >>> (2 * raw) = t / 2 ^ (2 * raw) % 4 := by
      rw [Nat.shiftRight_and_distrib, Nat.shiftLeft_shiftRight, Nat.shiftRight_eq_div_pow]
      exact Nat.and_two_pow_sub_one_eq_mod _ 2
    rw [shiftCodes, ih, hhead, List.range_succ_eq_map, List.map_cons, List.map_map]
    refine congrArg₂ List.cons (by simp) (List.map_congr_left fun i _ => ?_)
    rw [Function.comp_apply, Nat.shiftLeft_eq, mul_assoc, show 2 ^ 2 = 4 by rfl, ← pow_succ']

/-- Shifting the window up by `i` operators and down to the lowest place is reading operator `i` in its own place. -/
theorem window_shift {raw i : Nat} (hraw : raw < 8) (hi : i ≤ raw) (w : Nat) :
    w / 2 ^ (27 - 2 * raw) * 4 ^ i / 2 ^ (2 * raw) % 4 = w / 2 ^ (27 - 2 * i) % 4 := by
  have h1 : 2 ^ (2 * raw) = 4 ^ i * 2 ^ (2 * raw - 2 * i) := by
    rw [show (4 : Nat) = 2 ^ 2 by rfl, ← pow_mul, ← pow_add]
    congr 1
    omega
  rw [h1, mul_comm _ (4 ^ i), Nat.mul_div_mul_left _ _ (by positivity), Nat.div_div_eq_div_mul, ← pow_add]
  congr 3
  omega

/-- Step 2 of R81: shifting the dimension field to the top and down again. -/
theorem dimension_shift {raw : Nat} (hraw : raw < 8) (w : Nat) :
    ((w <<< (5 + 2 * raw)) % 2 ^ 32) >>> 28 = w / 2 ^ (23 - 2 * raw) % 16 := by
  have h1 : 2 ^ 32 = 2 ^ (5 + 2 * raw) * 2 ^ (27 - 2 * raw) := by
    rw [← pow_add]
    congr 1
    omega
  have h2 : 2 ^ 28 = 2 ^ (5 + 2 * raw) * 2 ^ (23 - 2 * raw) := by
    rw [← pow_add]
    congr 1
    omega
  have h3 : 2 ^ (27 - 2 * raw) = 2 ^ (23 - 2 * raw) * 16 := by
    rw [show (16 : Nat) = 2 ^ 4 by rfl, ← pow_add]
    congr 1
    omega
  rw [Nat.shiftLeft_eq, Nat.shiftRight_eq_div_pow, h1, h2, mul_comm w, Nat.mul_mod_mul_left,
    Nat.mul_div_mul_left _ _ (by positivity), h3, Nat.mod_mul_right_div_self]

end ShiftSequence

/-- Settles O14, field by field. -/
theorem decAgreesWithShiftSequence : Obligations.DecAgreesWithShiftSequence := by
  unfold Obligations.DecAgreesWithShiftSequence
  intro s w hw
  refine ⟨_, exec_dec hw s, ?_⟩
  have hlt := word_div_lt w
  have hraw : w.toNat >>> 29 = w.toNat / 2 ^ 29 := Nat.shiftRight_eq_div_pow _ _
  have hd : 25 - 2 * (w.toNat / 2 ^ 29 + 1) = 23 - 2 * (w.toNat / 2 ^ 29) := by omega
  simp only [shiftDecode, loadIr_ir, decIr_dm1, irN_decIr, hraw, wordN_eq, dimension_shift hlt, hd, shiftCodes_eq]
  refine congrArg₂ Prod.mk (wordNm1_toNat w).symm (congrArg₂ Prod.mk rfl ?_)
  apply List.ext_getElem
  · simp
    omega
  · intro i hi hi'
    simp at hi
    have hop := decIr_op w ⟨i, by omega⟩
    rw [if_pos (show i < wordN w by rw [wordN_eq]; omega)] at hop
    simp only [List.getElem_map, List.getElem_range, List.getElem_take, Vector.getElem_toList,
      Nat.shiftRight_eq_div_pow]
    rw [window_shift hlt (by omega)]
    exact hop.symm

end Sys2Proof.Machine
end

section
/-! The word that ENC builds, as a number (40_codec.md R84). A word is built from the top down: `upperPart` is the
number that its count and its first operator codes form, one base-4 digit for each operator. -/

namespace Sys2Proof.Machine

section UpperPart
variable {nm1 : Nat} {c : Nat → Nat}

/-- The number that the count field and the first operator codes of a word form, from the top down. -/
def upperPart (nm1 : Nat) (c : Nat → Nat) : Nat → Nat
  | 0 => nm1
  | k + 1 => 4 * upperPart nm1 c k + c k

/-- Of a word, the upper part is what stands above the next field. -/
theorem upperPart_eq_div {w k : Nat} (hnm1 : nm1 = w / 2 ^ 29) (hc : ∀ i < k, c i = w / 2 ^ (27 - 2 * i) % 4)
    (hk : k ≤ 8) : upperPart nm1 c k = w / 2 ^ (29 - 2 * k) := by
  induction k with
  | zero => exact hnm1
  | succ k ih =>
    have hpow : 2 ^ (29 - 2 * k) = 2 ^ (27 - 2 * k) * 4 := by
      rw [show 29 - 2 * k = 27 - 2 * k + 2 by omega, pow_add]
      rfl
    rw [upperPart, ih (fun i hi => hc i (by omega)) (by omega), hc k (by omega), hpow, ← Nat.div_div_eq_div_mul,
      Nat.div_add_mod, show 29 - 2 * (k + 1) = 27 - 2 * k by omega]

/-- In its place, the upper part is the sum of its fields in theirs. -/
theorem upperPart_mul_two_pow {k : Nat} (hk : k ≤ 8) :
    upperPart nm1 c k * 2 ^ (29 - 2 * k) = nm1 * 2 ^ 29 + ∑ i ∈ Finset.range k, c i * 2 ^ (27 - 2 * i) := by
  induction k with
  | zero => simp [upperPart]
  | succ k ih =>
    have hpow : 2 ^ (29 - 2 * k) = 4 * 2 ^ (27 - 2 * k) := by
      rw [show 29 - 2 * k = 2 + (27 - 2 * k) by omega, pow_add]
      rfl
    rw [Finset.sum_range_succ, ← add_assoc, ← ih (by omega), upperPart, hpow,
      show 29 - 2 * (k + 1) = 27 - 2 * k by omega]
    ring

/-- A shorter upper part is what remains when the last codes are dropped. -/
theorem upperPart_div_four_pow (hc : ∀ i, c i < 4) (j m : Nat) :
    upperPart nm1 c (j + m) / 4 ^ m = upperPart nm1 c j := by
  induction m with
  | zero => simp
  | succ m ih =>
    have hlast : upperPart nm1 c (j + (m + 1)) / 4 = upperPart nm1 c (j + m) := by
      have hlt := hc (j + m)
      rw [← add_assoc, upperPart]
      omega
    rw [pow_succ', ← Nat.div_div_eq_div_mul, hlast, ih]

/-- The upper part is 0 only for the count 0 with every code 0. -/
theorem upperPart_eq_zero {k : Nat} : upperPart nm1 c k = 0 ↔ nm1 = 0 ∧ ∀ i < k, c i = 0 := by
  induction k with
  | zero => simp [upperPart]
  | succ k ih =>
    rw [upperPart, Nat.add_eq_zero_iff, Nat.forall_lt_succ_right, ← and_assoc, ← ih]
    simp

end UpperPart

section BuildWord
variable {n d : Nat} {codes : Vector OpCode 8}

/-- The code of slot `i` as a number. -/
def slotCode (codes : Vector OpCode 8) (i : Nat) : Nat := (codes[Fin.ofNat 8 i]).toNat

theorem slotCode_val (codes : Vector OpCode 8) (i : Fin 8) : slotCode codes i.val = (codes[i]).toNat :=
  congrArg (fun j : Fin 8 => (codes[j]).toNat) (Fin.ofNat_val_eq_self i)

theorem slotCode_lt (codes : Vector OpCode 8) (i : Nat) : slotCode codes i < 4 := (codes[Fin.ofNat 8 i]).isLt

/-- A field joined to a number that is 0 in the field's place and below it is added to it. -/
theorem join_field {w v : Word32} {a b lo width : Nat} (hw : w.toNat = a * 2 ^ (lo + width))
    (hv : v.toNat = b * 2 ^ lo) (hb : b < 2 ^ width) : (w ||| v).toNat = (2 ^ width * a + b) * 2 ^ lo := by
  have hlt : b * 2 ^ lo < 2 ^ (lo + width) := by
    rw [pow_add, mul_comm]
    exact Nat.mul_lt_mul_of_pos_left hb (by positivity)
  rw [BitVec.toNat_or, hw, hv, mul_comm a, ← Nat.two_pow_add_eq_or_of_lt hlt, pow_add]
  ring

theorem shifted_toNat {v lo width : Nat} (hv : v < 2 ^ width) (hlo : lo + width ≤ 32) :
    (BitVec.ofNat 32 v <<< lo).toNat = v * 2 ^ lo := by
  have hlt : v * 2 ^ lo < 2 ^ 32 :=
    calc v * 2 ^ lo < 2 ^ width * 2 ^ lo := Nat.mul_lt_mul_of_pos_right hv (by positivity)
      _ = 2 ^ (lo + width) := by rw [← pow_add, add_comm]
      _ ≤ 2 ^ 32 := Nat.pow_le_pow_right (by norm_num) hlo
  have hsmall : v < 2 ^ 32 := lt_of_le_of_lt (Nat.le_mul_of_pos_right v (by positivity)) hlt
  rw [BitVec.toNat_shiftLeft, BitVec.toNat_ofNat, Nat.mod_eq_of_lt hsmall, Nat.shiftLeft_eq, Nat.mod_eq_of_lt hlt]

theorem placeOp_toNat (i : Nat) (code : OpCode) : (placeOp i code).toNat = code.toNat * 2 ^ (27 - 2 * i) := by
  rw [← shifted_toNat (width := 2) code.isLt (by omega), placeOp, BitVec.ofNat_toNat]

/-- The operators `0 .. k-1` of the first `n` in their places, as `encOps` joins them. -/
def encOpsTo (k n : Nat) (codes : Vector OpCode 8) : Word32 :=
  (indices8.take k).foldl (fun w i => if i.val < n then w ||| placeOp i.val codes[i] else w) 0

theorem encOpsTo_succ {k : Nat} (hk : k < 8) (n : Nat) (codes : Vector OpCode 8) :
    encOpsTo (k + 1) n codes =
      if k < n then encOpsTo k n codes ||| placeOp k codes[k] else encOpsTo k n codes := by
  have hnth : ∀ i : Fin 8, indices8.take (i.val + 1) = indices8.take i.val ++ [i] := by decide
  rw [encOpsTo, hnth ⟨k, hk⟩, List.foldl_append]
  rfl

/-- The count field and the operators joined are the upper part in its place. -/
theorem encOpsTo_toNat {nm1 k : Nat} (hnm1 : nm1 < 8) (hk : k ≤ n) (hn : n ≤ 8) :
    (BitVec.ofNat 32 nm1 <<< 29 ||| encOpsTo k n codes).toNat =
      upperPart nm1 (slotCode codes) k * 2 ^ (29 - 2 * k) := by
  induction k with
  | zero =>
    have hzero : encOpsTo 0 n codes = 0#32 := rfl
    rw [hzero, BitVec.or_zero]
    exact shifted_toNat (width := 3) hnm1 (by norm_num)
  | succ k ih =>
    have hw := ih (by omega)
    rw [show 29 - 2 * k = 27 - 2 * k + 2 by omega] at hw
    have hcode : (placeOp k codes[k]).toNat = slotCode codes k * 2 ^ (27 - 2 * k) := by
      rw [placeOp_toNat]
      exact congrArg (· * _) (slotCode_val codes ⟨k, by omega⟩).symm
    rw [encOpsTo_succ (by omega), if_pos (by omega), ← BitVec.or_assoc, join_field hw hcode (slotCode_lt codes k),
      upperPart, show 29 - 2 * (k + 1) = 27 - 2 * k by omega]
    rfl

/-- No slot past the first `n` takes part. -/
theorem encOpsTo_of_le {k : Nat} (hk : n ≤ k) (hle : k ≤ 8) : encOpsTo k n codes = encOpsTo n n codes := by
  induction k, hk using Nat.le_induction with
  | base => rfl
  | succ k hk ih => rw [encOpsTo_succ (by omega), if_neg (by omega), ih (by omega)]

theorem encOps_eq (hn : n ≤ 8) : encOps n codes = encOpsTo n n codes := encOpsTo_of_le (k := 8) hn le_rfl

/-- The word of R84: the upper part, the dimension field below it, and zeros. -/
theorem encWord_toNat (hn : 1 ≤ n) (hn8 : n ≤ 8) (hd : 1 ≤ d) (hd16 : d ≤ 16) :
    (encWord n d codes).toNat =
      (16 * upperPart (n - 1) (slotCode codes) n + (d - 1)) * 2 ^ (25 - 2 * n) := by
  have hhigh := encOpsTo_toNat (codes := codes) (show n - 1 < 8 by omega) le_rfl hn8
  rw [show 29 - 2 * n = 25 - 2 * n + 4 by omega] at hhigh
  have hdim : d - 1 < 2 ^ 4 := by omega
  rw [encWord, encOps_eq hn8, join_field hhigh (shifted_toNat hdim (by omega)) hdim]
  rfl

/-- What the count and the first `j` operators of the word form. -/
theorem encWord_div (hn : 1 ≤ n) (hn8 : n ≤ 8) (hd : 1 ≤ d) (hd16 : d ≤ 16) {j : Nat} (hj : j ≤ n) :
    (encWord n d codes).toNat / 2 ^ (29 - 2 * j) = upperPart (n - 1) (slotCode codes) j := by
  obtain ⟨m, rfl⟩ := Nat.exists_eq_add_of_le hj
  have hpow : 2 ^ (29 - 2 * j) = 2 ^ (25 - 2 * (j + m)) * (16 * 4 ^ m) := by
    rw [show (16 : Nat) = 2 ^ 4 by rfl, show (4 : Nat) = 2 ^ 2 by rfl, ← pow_mul, ← pow_add, ← pow_add]
    congr 1
    omega
  have hdim : (16 * upperPart (j + m - 1) (slotCode codes) (j + m) + (d - 1)) / 16 =
      upperPart (j + m - 1) (slotCode codes) (j + m) := by omega
  rw [encWord_toNat hn hn8 hd hd16, hpow, ← Nat.div_div_eq_div_mul, Nat.mul_div_cancel _ (by positivity),
    ← Nat.div_div_eq_div_mul, hdim, upperPart_div_four_pow (slotCode_lt codes)]

theorem wordN_encWord (hn : 1 ≤ n) (hn8 : n ≤ 8) (hd : 1 ≤ d) (hd16 : d ≤ 16) :
    wordN (encWord n d codes) = n := by
  have hnm1 := encWord_div (codes := codes) hn hn8 hd hd16 (Nat.zero_le n)
  rw [wordN_eq, show 29 = 29 - 2 * 0 by rfl, hnm1, upperPart]
  omega

/-- The word is 0 only for N=1, D=1 and the code 0 (40_codec.md R87, conflict C5). -/
theorem encWord_eq_zero (hn : 1 ≤ n) (hn8 : n ≤ 8) (hd : 1 ≤ d) (hd16 : d ≤ 16) :
    encWord n d codes = 0 ↔ n = 1 ∧ d = 1 ∧ codes[0] = 0 := by
  have hzero : encWord n d codes = 0 ↔ (encWord n d codes).toNat = 0 := BitVec.toNat_eq
  have hpow : 2 ^ (25 - 2 * n) ≠ 0 := by positivity
  rw [hzero, encWord_toNat hn hn8 hd hd16, Nat.mul_eq_zero, or_iff_left hpow, Nat.add_eq_zero_iff, Nat.mul_eq_zero,
    or_iff_right (by norm_num), upperPart_eq_zero]
  constructor
  · rintro ⟨⟨hn1, hcodes⟩, hd1⟩
    exact ⟨by omega, by omega, BitVec.eq_of_toNat_eq (hcodes 0 hn)⟩
  · rintro ⟨rfl, rfl, hcode⟩
    refine ⟨⟨rfl, fun i hi => ?_⟩, rfl⟩
    obtain rfl : i = 0 := by omega
    exact congrArg BitVec.toNat hcode

/-- Slot `i` of DEC's fields is the code that ENC placed there. -/
theorem decIr_encWord_op (hn : 1 ≤ n) (hn8 : n ≤ 8) (hd : 1 ≤ d) (hd16 : d ≤ 16) :
    (decIr (encWord n d codes)).op = keepFirst n codes := by
  refine Vector.ext fun i hi => BitVec.eq_of_toNat_eq ?_
  have hget := decIr_op (encWord n d codes) ⟨i, hi⟩
  have hkeep := congrArg BitVec.toNat (keepFirst_get n codes ⟨i, hi⟩)
  refine hget.trans (Eq.trans ?_ hkeep.symm)
  rw [wordN_encWord hn hn8 hd hd16, apply_ite BitVec.toNat]
  refine ite_congr rfl (fun hlt => ?_) fun _ => rfl
  have hdiv := encWord_div (codes := codes) hn hn8 hd hd16 (Nat.succ_le_of_lt hlt)
  have hcode := slotCode_val codes ⟨i, hi⟩
  have hsmall := slotCode_lt codes i
  rw [show 29 - 2 * (i + 1) = 27 - 2 * i by omega, upperPart] at hdiv
  rw [hdiv, ← hcode]
  omega

/-- DEC of the word that ENC builds takes the fields ENC loads into `IR`. -/
theorem decIr_encWord (hn : 1 ≤ n) (hn8 : n ≤ 8) (hd : 1 ≤ d) (hd16 : d ≤ 16) :
    decIr (encWord n d codes) = ⟨true, BitVec.ofNat 3 (n - 1), BitVec.ofNat 4 (d - 1), keepFirst n codes⟩ := by
  have hcount : wordN (encWord n d codes) = n := wordN_encWord hn hn8 hd hd16
  have hnm1 : (decIr (encWord n d codes)).nm1 = BitVec.ofNat 3 (n - 1) := by
    apply BitVec.eq_of_toNat_eq
    have h := decIr_nm1 (encWord n d codes)
    rw [BitVec.toNat_ofNat]
    omega
  have hdm1 : (decIr (encWord n d codes)).dm1 = BitVec.ofNat 4 (d - 1) := by
    apply BitVec.eq_of_toNat_eq
    rw [decIr_dm1, hcount, encWord_toNat hn hn8 hd hd16, Nat.mul_div_cancel _ (by positivity), BitVec.toNat_ofNat]
    omega
  rw [← hnm1, ← hdm1, ← decIr_encWord_op hn hn8 hd hd16]
  rfl

/-- The word as the sum of its fields in their places (30_encoding.md R61). -/
theorem encWord_toNat_eq_sum (hn : 1 ≤ n) (hn8 : n ≤ 8) (hd : 1 ≤ d) (hd16 : d ≤ 16) :
    (encWord n d codes).toNat = (n - 1) * 2 ^ 29
      + (∑ i : Fin 8, if i.val < n then (codes[i]).toNat * 2 ^ (27 - 2 * i.val) else 0)
      + (d - 1) * 2 ^ (25 - 2 * n) := by
  have hrange : (Finset.range 8).filter (· < n) = Finset.range n := by
    ext i
    simp only [Finset.mem_filter, Finset.mem_range]
    omega
  have hsum : ∑ i : Fin 8, (if i.val < n then (codes[i]).toNat * 2 ^ (27 - 2 * i.val) else 0) =
      ∑ i ∈ Finset.range n, slotCode codes i * 2 ^ (27 - 2 * i) := by
    simp only [← slotCode_val]
    rw [Fin.sum_univ_eq_sum_range (fun i => if i < n then slotCode codes i * 2 ^ (27 - 2 * i) else 0) 8,
      ← Finset.sum_filter, hrange]
  rw [encWord_toNat hn hn8 hd hd16, hsum, ← upperPart_mul_two_pow hn8,
    show 29 - 2 * n = 25 - 2 * n + 4 by omega, pow_add]
  ring

/-- The word built from the fields of a word `w` is `w` with its padding cleared. -/
theorem encWord_of_word_fields {w : Word32} (hn : n = wordN w) (hd : 1 ≤ d)
    (hdim : d - 1 = w.toNat / 2 ^ (25 - 2 * n) % 16)
    (hcode : ∀ i < n, slotCode codes i = w.toNat / 2 ^ (27 - 2 * i) % 4) :
    (encWord n d codes).toNat = w.toNat / 2 ^ (25 - 2 * n) * 2 ^ (25 - 2 * n) := by
  have hle := wordN_le w
  have hwordN := wordN_eq w
  have hupper := upperPart_eq_div (w := w.toNat) (nm1 := n - 1) (by omega) hcode (by omega)
  rw [encWord_toNat (by omega) (by omega) hd (by omega), hupper, hdim,
    show 29 - 2 * n = 25 - 2 * n + 4 by omega, pow_add, ← Nat.div_div_eq_div_mul]
  exact congrArg (· * _) (Nat.div_add_mod _ 16)

/-- So DEC takes the same fields from both. -/
theorem decIr_encWord_of_word_fields {w : Word32} (hn : n = wordN w)
    (hword : (encWord n d codes).toNat = w.toNat / 2 ^ (25 - 2 * n) * 2 ^ (25 - 2 * n)) :
    decIr (encWord n d codes) = decIr w := by
  have hpad : 25 - 2 * n = 23 - 2 * (w.toNat / 2 ^ 29) := by
    rw [hn, wordN_eq]
    omega
  refine decIr_congr ?_
  rw [← hpad, hword, Nat.mul_div_cancel _ (by positivity)]

end BuildWord
end Sys2Proof.Machine
end

section
/-! ENC and its agreement with DEC (40_codec.md R84 to R87). The token loop is said once for both of its endings. -/

namespace Sys2Proof.Machine

section TokenLoop

/-- The token loop stages the codes of the first `n` tokens and changes nothing else, or faults at an unrecognised one
of them (40_codec.md R84, R85). -/
theorem stageTokens_cases (n : Nat) (tok : Vector Token 8) {l : List (Fin 8)} (hl : l.Pairwise (· < ·)) (s : State) :
    (∃ t, stageTokens n tok l s = .ok t ∧ t = { s with encC := t.encC } ∧ (∀ i ∉ l, t.encC[i] = s.encC[i]) ∧
        ∀ i ∈ l, i.val < n → ∃ op, tokOp tok[i] = some op ∧ t.encC[i] = op.code) ∨
      ∃ u, stageTokens n tok l s = .error (.raised (encFail .malformedInput u)) ∧ u = { s with encC := u.encC } ∧
        ∃ i : Fin 8, i.val < n ∧ tokOp tok[i] = none := by
  induction l generalizing s with
  | nil => exact .inl ⟨s, rfl, rfl, fun _ _ => rfl, nofun⟩
  | cons i rest ih =>
    obtain ⟨hlt, hrest⟩ := List.pairwise_cons.mp hl
    by_cases hi : i.val < n
    · rw [stageTokens, if_pos hi, stageToken]
      cases htok : tokOp tok[i] with
      | none => exact .inr ⟨s, rfl, rfl, i, hi, htok⟩
      | some op =>
        rcases ih hrest (stageCode i op.code s) with ⟨t, hrun, ht, hkept, hstaged⟩ | ⟨u, hrun, hu, hbad⟩
        · have hne : ∀ j : Fin 8, i ≠ j → (stageCode i op.code s).encC[j] = s.encC[j] := fun j hj =>
            Vector.getElem_set_ne i.isLt j.isLt fun heq => hj (Fin.ext heq)
          refine .inl ⟨t, hrun, ht, fun j hj => ?_, fun j hj hjn => ?_⟩
          · have hji := List.ne_of_not_mem_cons hj
            exact (hkept j (List.not_mem_of_not_mem_cons hj)).trans (hne j hji.symm)
          · rcases List.mem_cons.mp hj with rfl | hj
            · have hnot : j ∉ rest := fun hmem => lt_irrefl j (hlt j hmem)
              exact ⟨op, htok, (hkept j hnot).trans (Vector.getElem_set_self j.isLt)⟩
            · exact hstaged j hj hjn
        · exact .inr ⟨u, hrun, hu, hbad⟩
    · refine .inl ⟨s, if_neg hi, rfl, fun _ _ => rfl, fun j hj hjn => ?_⟩
      rcases List.mem_cons.mp hj with rfl | hj
      · exact absurd hjn hi
      · have hij : i.val < j.val := hlt j hj
        omega

theorem mem_indices8 : ∀ i : Fin 8, i ∈ indices8 := by decide

theorem indices8_pairwise : indices8.Pairwise (· < ·) := by decide

end TokenLoop

section Enc
variable {n d : BitVec 8} {tok : Vector Token 8} {s : State}

theorem encInRange_iff {n d : Nat} : encInRange n d = true ↔ 1 ≤ n ∧ n ≤ 8 ∧ 1 ≤ d ∧ d ≤ 16 := by
  simp [encInRange, and_assoc]

theorem exec_enc_out_of_range (h : encInRange n.toNat d.toNat = false) :
    exec (.enc n d tok) s = .next (encFail .outOfRange s) := by
  change execEnc n d tok s = _
  rw [execEnc, h]
  rfl

theorem exec_enc_in_range (h : encInRange n.toNat d.toNat = true) :
    exec (.enc n d tok) s =
      finish (andThen (stageTokens n.toNat tok indices8 s) fun s => .ok (encLoad n.toNat d.toNat s)) := if_pos h

/-- Everything ENC can do (40_codec.md R84, R85). -/
theorem exec_enc_cases (n d : BitVec 8) (tok : Vector Token 8) (s : State) :
    (encInRange n.toNat d.toNat = false ∧ exec (.enc n d tok) s = .next (encFail .outOfRange s)) ∨
      (encInRange n.toNat d.toNat = true ∧
        ∃ t, exec (.enc n d tok) s = .next (encLoad n.toNat d.toNat t) ∧ t = { s with encC := t.encC } ∧
          ∀ i : Fin 8, i.val < n.toNat → ∃ op, tokOp tok[i] = some op ∧ t.encC[i] = op.code) ∨
      (encInRange n.toNat d.toNat = true ∧
        ∃ u, exec (.enc n d tok) s = .next (encFail .malformedInput u) ∧ u = { s with encC := u.encC } ∧
          ∃ i : Fin 8, i.val < n.toNat ∧ tokOp tok[i] = none) := by
  cases h : encInRange n.toNat d.toNat with
  | false => exact .inl ⟨rfl, exec_enc_out_of_range h⟩
  | true =>
    rw [exec_enc_in_range h]
    rcases stageTokens_cases n.toNat tok indices8_pairwise s with ⟨t, hrun, ht, _, hstaged⟩ | ⟨u, hrun, hu, hbad⟩ <;>
      rw [hrun]
    · exact .inr (.inl ⟨rfl, t, rfl, ht, fun i => hstaged i (mem_indices8 i)⟩)
    · exact .inr (.inr ⟨rfl, u, rfl, hu, hbad⟩)

/-- ENC with legal counts and tokens stages the tokens' codes and loads word and `IR`. -/
theorem exec_enc_of_legal (hrange : encInRange n.toNat d.toNat = true)
    (htok : ∀ i : Fin 8, i.val < n.toNat → tokOp tok[i] ≠ none) :
    ∃ t, exec (.enc n d tok) s = .next (encLoad n.toNat d.toNat t) ∧ t = { s with encC := t.encC } ∧
      ∀ i : Fin 8, i.val < n.toNat → ∃ op, tokOp tok[i] = some op ∧ t.encC[i] = op.code := by
  rcases exec_enc_cases n d tok s with ⟨hout, _⟩ | ⟨_, h⟩ | ⟨_, u, _, _, i, hi, hnone⟩
  · exact absurd (hrange.symm.trans hout) nofun
  · exact h
  · exact absurd hnone (htok i hi)

end Enc

/-- Settles O22: `decIr_encWord` for a nonzero word, and the one triple with the word 0. -/
theorem encThenDecRestoresInstruction : Obligations.EncThenDecRestoresInstruction := by
  unfold Obligations.EncThenDecRestoresInstruction
  intro s n d tok hn hn8 hd hd16 htok
  obtain ⟨t, hexec, _, hstaged⟩ := exec_enc_of_legal (s := s) (encInRange_iff.mpr ⟨hn, hn8, hd, hd16⟩) htok
  refine ⟨_, hexec, fun v => ?_⟩
  obtain ⟨op, htok0, hcode⟩ := hstaged 0 hn
  have hadd : t.encC[0] = 0 ↔ tokOp tok[0] = some .add := by
    rw [show t.encC[0] = op.code from hcode, show tokOp tok[0] = some op from htok0, Op.code_eq_zero,
      Option.some.injEq]
  have hzero := encWord_eq_zero (codes := t.encC) hn hn8 hd hd16
  rw [hadd] at hzero
  rw [encLoad_word]
  split_ifs with hexc
  · rw [hzero.mpr hexc]
    exact ⟨_, exec_dec_zero v, rfl, rfl, rfl⟩
  · have hne := hzero.not.mpr hexc
    exact ⟨_, exec_dec hne v, hne, rfl, decIr_encWord hn hn8 hd hd16⟩

/-- Settles O19: the codes staged are the operators' codes, and the word is the sum of its fields. -/
theorem encBuildsWordAndInstruction : Obligations.EncBuildsWordAndInstruction := by
  unfold Obligations.EncBuildsWordAndInstruction
  intro s n d tok ops hn hn8 hd hd16 htok
  obtain ⟨t, hexec, ht, hstaged⟩ := exec_enc_of_legal (s := s) (encInRange_iff.mpr ⟨hn, hn8, hd, hd16⟩)
    fun i hi hnone => Option.some_ne_none _ ((htok i hi).symm.trans hnone)
  have hcode : ∀ i : Fin 8, i.val < n.toNat → t.encC[i] = (ops i).code := fun i hi => by
    obtain ⟨op, hop, hc⟩ := hstaged i hi
    rw [hc, Option.some.inj (hop.symm.trans (htok i hi))]
  refine ⟨_, hexec, ?_, ?_, rfl, ?_, ?_, fun i => ?_⟩
  · rw [ht]
    rfl
  · have hsum : ∀ i : Fin 8, (if i.val < n.toNat then (t.encC[i]).toNat * 2 ^ (27 - 2 * i.val) else 0) =
        if i.val < n.toNat then (ops i).code.toNat * 2 ^ (27 - 2 * i.val) else 0 := fun i =>
      ite_congr rfl (fun hi => by rw [hcode i hi]) fun _ => rfl
    rw [encLoad_word, encWord_toNat_eq_sum hn hn8 hd hd16, Finset.sum_congr rfl fun i _ => hsum i]
  · rw [encLoad_ir, BitVec.toNat_ofNat]
    omega
  · rw [encLoad_ir, BitVec.toNat_ofNat]
    omega
  · exact (keepFirst_get n.toNat t.encC i).trans (ite_congr rfl (hcode i) fun _ => rfl)

/-- Settles O20: the range test comes first. -/
theorem encRejectsCountsOutOfRange : Obligations.EncRejectsCountsOutOfRange := by
  unfold Obligations.EncRejectsCountsOutOfRange
  intro s n d tok h
  have hrange : encInRange n.toNat d.toNat = false := by
    rw [← Bool.not_eq_true, encInRange_iff]
    omega
  rw [exec_enc_out_of_range hrange]
  rfl

/-- Settles O21: of the three things ENC can do, two need other counts or other tokens. -/
theorem encRejectsUnknownToken : Obligations.EncRejectsUnknownToken := by
  unfold Obligations.EncRejectsUnknownToken
  intro s n d tok hn hn8 hd hd16 ⟨i, hi, hnone⟩
  have hrange := encInRange_iff.mpr ⟨hn, hn8, hd, hd16⟩
  rcases exec_enc_cases n d tok s with ⟨hout, _⟩ | ⟨_, _, _, _, hstaged⟩ | ⟨_, u, hexec, hu, _⟩
  · exact absurd (hrange.symm.trans hout) nofun
  · obtain ⟨op, hop, _⟩ := hstaged i hi
    exact absurd (hnone.symm.trans hop) nofun
  · refine ⟨_, hexec, ?_⟩
    rw [hu]
    rfl

/-- Settles O23: ENC is given the fields of the word. -/
theorem decThenEncClearsPadding : Obligations.DecThenEncClearsPadding := by
  unfold Obligations.DecThenEncClearsPadding
  intro s w n d tok hw
  refine ⟨_, exec_dec hw s, fun hn hd htok => ?_⟩
  replace hn : n.toNat = wordN w := hn
  replace hd : d.toNat = (decIr w).dm1.toNat + 1 := hd
  have hrange : encInRange n.toNat d.toNat = true := by
    have hle := wordN_le w
    have hpos : 1 ≤ wordN w := Nat.succ_pos _
    have hdim := (decIr w).dm1.isLt
    rw [encInRange_iff]
    omega
  obtain ⟨hn1, hn8, hd1, hd16⟩ := encInRange_iff.mp hrange
  obtain ⟨t, hexec, _, hstaged⟩ := exec_enc_of_legal (s := loadIr (decIr w) s) hrange
    fun i hi hnone => Option.some_ne_none _ ((htok i hi).symm.trans hnone)
  have hdim : d.toNat - 1 = w.toNat / 2 ^ (25 - 2 * n.toNat) % 16 := by
    rw [hn, ← decIr_dm1, hd, Nat.add_sub_cancel]
  have hcode : ∀ i < n.toNat, slotCode t.encC i = w.toNat / 2 ^ (27 - 2 * i) % 4 := fun i hi => by
    obtain ⟨op, hop, hc⟩ := hstaged ⟨i, by omega⟩ hi
    have hdec := decIr_op w ⟨i, by omega⟩
    rw [if_pos (hn ▸ hi)] at hdec
    rw [← hdec, slotCode_val t.encC ⟨i, by omega⟩, hc, Option.some.inj (hop.symm.trans (htok _ hi)),
      Op.code_ofCode, loadIr_ir]
  have hword := encWord_of_word_fields hn hd1 hdim hcode
  refine ⟨_, hexec, ?_, rfl, hword⟩
  rw [encLoad_ir, ← decIr_encWord hn1 hn8 hd1 hd16, decIr_encWord_of_word_fields hn hword, loadIr_ir]

/-- Settles O25, by the instructions of the codec. -/
theorem codecFrame : Obligations.CodecFrame := by
  unfold Obligations.CodecFrame
  intro i s t heval hop hnext
  cases i with
  | dec w =>
    by_cases hw : w = 0
    · subst hw
      cases hnext
      rfl
    · rw [exec_dec hw] at hnext
      cases hnext
      rfl
  | enc n d tok =>
    rcases exec_enc_cases n d tok s with ⟨_, h⟩ | ⟨_, u, h, hu, _⟩ | ⟨_, u, h, hu, _⟩ <;> cases h.symm.trans hnext
    · rfl
    · rw [hu]
      rfl
    · rw [hu]
      rfl
  | evalP2 | evalGen | evalPrec => cases heval
  | add _ | sub _ | mul _ | div _ => cases hop
  | _ =>
    cases hnext
    rfl

end Sys2Proof.Machine
end

section
/-! One extraction as numbers, in both modes (41_unpacker.md R102, R104). -/

namespace Sys2Proof.Machine

section CarryExtraction
variable {d : Nat} {s : State}

/-- Case C of R104: the operand is the top of the pending bits. -/
theorem extractCarry_of_le (hsmall : s.pendVal.toNat < 2 ^ s.pendBits.toNat) (hle : d ≤ s.pendBits.toNat) :
    ∃ v, extractCarry d s = .ok (v, keepPending (s.pendBits.toNat - d) s.pendVal s) ∧
      v.toNat = s.pendVal.toNat / 2 ^ (s.pendBits.toNat - d) := by
  refine ⟨_, extractCarry_pending hle, ?_⟩
  have hlt : s.pendVal.toNat / 2 ^ (s.pendBits.toNat - d) < 2 ^ 16 :=
    lt_of_le_of_lt (Nat.div_le_self _ _) s.pendVal.isLt
  have hfield : s.pendVal.toNat < 2 ^ (s.pendBits.toNat - d + d) := by rwa [Nat.sub_add_cancel hle]
  rw [BitVec.toNat_ofNat, field_of_le hfield, Nat.mod_eq_of_lt hlt]

/-- Pending bits joined with the top of a chunk (case B of R104). -/
theorem join_topBits_toNat {v c : Chunk} {pb len : Nat} (hv : v.toNat < 2 ^ pb) (hlen : pb + len ≤ 16) :
    (v <<< len ||| topBits c len).toNat = v.toNat * 2 ^ len + c.toNat / 2 ^ (16 - len) := by
  have hshift : v.toNat * 2 ^ len < 2 ^ 16 :=
    calc v.toNat * 2 ^ len < 2 ^ pb * 2 ^ len := Nat.mul_lt_mul_of_pos_right hv (by positivity)
      _ = 2 ^ (pb + len) := (pow_add 2 pb len).symm
      _ ≤ 2 ^ 16 := Nat.pow_le_pow_right (by norm_num) hlen
  have htop : c.toNat / 2 ^ (16 - len) < 2 ^ len := by
    refine Nat.div_lt_of_lt_mul ?_
    rw [← pow_add, Nat.sub_add_cancel (by omega)]
    exact c.isLt
  rw [BitVec.toNat_or, BitVec.toNat_shiftLeft, topBits_toNat (by omega), Nat.shiftLeft_eq, Nat.mod_eq_of_lt hshift,
    mul_comm, ← Nat.two_pow_add_eq_or_of_lt htop]

/-- Cases A and B of R104 in one: the pending bits, of which A has none, joined with the top of the next chunk. -/
theorem extractCarry_of_lt (hd : d ≤ 16) (hsmall : s.pendVal.toNat < 2 ^ s.pendBits.toNat)
    (hlt : s.pendBits.toNat < d) :
    ∃ f : Chunk → Chunk,
      extractCarry d s = andThen (readChunk s) (fun r =>
        .ok (f r.1, keepPending (16 - (d - s.pendBits.toNat)) r.1 r.2)) ∧
      ∀ c, (f c).toNat =
        s.pendVal.toNat * 2 ^ (d - s.pendBits.toNat) + c.toNat / 2 ^ (16 - (d - s.pendBits.toNat)) := by
  by_cases hzero : s.pendBits.toNat = 0
  · rw [hzero, pow_zero, Nat.lt_one_iff] at hsmall
    refine ⟨fun c => topBits c d, ?_, fun c => ?_⟩
    · rw [extractCarry_fresh (by omega) hzero, hzero, Nat.sub_zero]
    · rw [topBits_toNat hd, hsmall, hzero, Nat.sub_zero, zero_mul, zero_add]
  · exact ⟨_, extractCarry_straddle hzero hlt, fun c => join_topBits_toNat hsmall (by omega)⟩

end CarryExtraction

/-- Settles O38: case C needs no read; in the cases A and B the command ends as its read does. -/
theorem carryExtractionCases : Obligations.CarryExtractionCases := by
  unfold Obligations.CarryExtractionCases
  intro d s hpos hd hsmall pb
  have hpb : pb ≤ 15 := Nat.le_of_lt_succ s.pendBits.isLt
  refine ⟨fun hle => ?_, fun c hlt hchunk => ?_, fun hlt hend => ?_, fun hlt hmalformed => ?_⟩
  · obtain ⟨v, hrun, hv⟩ := extractCarry_of_le hsmall hle
    exact ⟨v, _, hrun, hv, (keepPending_small (by omega) _ _).1, lowBits_toNat (by omega), rfl⟩
  all_goals obtain ⟨f, hrun, hf⟩ := extractCarry_of_lt hd hsmall hlt
  · rw [readChunk_chunk hchunk] at hrun
    exact ⟨f c, _, hrun, hf c, (keepPending_small (by omega) _ _).1, lowBits_toNat (by omega), rfl, rfl⟩
  · rw [hrun, readChunk_endOfInput hend]
    rfl
  · rw [hrun, readChunk_malformed hmalformed]
    rfl

section AlignedExtraction
variable {d : Nat} {s : State}

/-- An extraction after the refill (41_unpacker.md R102). -/
theorem extractAligned_eq (d : Nat) (s : State) :
    extractAligned d s =
      andThen (refillWork d s) fun u => .ok (topBits u.work d, { u with work := u.work <<< d }) := rfl

theorem refillWork_of_ne (h : s.k.val % (16 / d) ≠ 0) : refillWork d s = .ok s := if_neg h

theorem refillWork_of_eq (h : s.k.val % (16 / d) = 0) :
    refillWork d s = andThen (readChunk s) fun r => .ok { r.2 with work := r.1 } := if_pos h

theorem shiftLeft_toNat (v : Chunk) (d : Nat) : (v <<< d).toNat = v.toNat * 2 ^ d % 2 ^ 16 := by
  rw [BitVec.toNat_shiftLeft, Nat.shiftLeft_eq]

end AlignedExtraction

/-- Settles O39: the command ends as its refill does. -/
theorem alignedExtractionTakesTopBits : Obligations.AlignedExtractionTakesTopBits := by
  unfold Obligations.AlignedExtractionTakesTopBits
  intro d s hmem
  have hd : d ≤ 16 := by
    simp only [List.mem_cons, List.not_mem_nil, or_false] at hmem
    omega
  refine ⟨fun hne => ?_, fun c heq hchunk => ?_, fun heq hend => ?_, fun heq hmalformed => ?_⟩ <;>
    rw [extractAligned_eq]
  · rw [refillWork_of_ne hne]
    exact ⟨_, _, rfl, topBits_toNat hd, shiftLeft_toNat _ _, rfl⟩
  all_goals rw [refillWork_of_eq heq]
  · rw [readChunk_chunk hchunk]
    exact ⟨_, _, rfl, topBits_toNat hd, shiftLeft_toNat _ _, rfl, rfl⟩
  · rw [readChunk_endOfInput hend]
    rfl
  · rw [readChunk_malformed hmalformed]
    rfl

end Sys2Proof.Machine
end

section
/-! UNPACK as a reader of the bit stream (41_unpacker.md R100): before every operand the block holds the bits of the
chunks read that no operand has taken yet, and an extraction takes the next `D` bits of the stream. -/

namespace Sys2Proof.Machine

section Stream
variable {chunks : List Chunk}

/-- A number of the stream is its upper part followed by its lower part. -/
theorem streamNumber_add (chunks : List Chunk) (p a b : Nat) :
    streamNumber chunks p (a + b) = streamNumber chunks p a * 2 ^ b + streamNumber chunks (p + a) b := by
  induction b with
  | zero => simp [streamNumber]
  | succ b ih =>
    rw [← add_assoc, streamNumber, ih, streamNumber, add_assoc p, pow_succ]
    ring

theorem streamBit_lt (chunks : List Chunk) (p : Nat) : streamBit chunks p < 2 := by
  unfold streamBit
  split
  · exact Nat.mod_lt _ (by norm_num)
  · norm_num

theorem streamNumber_lt (chunks : List Chunk) (p len : Nat) : streamNumber chunks p len < 2 ^ len := by
  induction len with
  | zero => simp [streamNumber]
  | succ len ih =>
    have hbit := streamBit_lt chunks (p + len)
    rw [streamNumber, pow_succ]
    omega

/-- A number that lies in one chunk is a field of it. -/
theorem streamNumber_in_chunk {j o len : Nat} {c : Chunk} (hc : chunks[j]? = some c) (hlen : o + len ≤ 16) :
    streamNumber chunks (16 * j + o) len = c.toNat / 2 ^ (16 - o - len) % 2 ^ len := by
  induction len with
  | zero => simp [streamNumber, Nat.mod_one]
  | succ len ih =>
    have hbit : streamBit chunks (16 * j + o + len) = c.toNat / 2 ^ (16 - o - (len + 1)) % 2 := by
      rw [streamBit, show (16 * j + o + len) / 16 = j by omega, hc,
        show 15 - (16 * j + o + len) % 16 = 16 - o - (len + 1) by omega]
    rw [streamNumber, ih (by omega), hbit, show 16 - o - len = 16 - o - (len + 1) + 1 by omega, pow_succ,
      ← Nat.div_div_eq_div_mul, pow_succ', Nat.mod_mul, add_comm]

/-- The top bits of a chunk. -/
theorem streamNumber_chunk_top {j len : Nat} {c : Chunk} (hc : chunks[j]? = some c) (hlen : len ≤ 16) :
    streamNumber chunks (16 * j) len = c.toNat / 2 ^ (16 - len) := by
  have hlt : c.toNat / 2 ^ (16 - len) < 2 ^ len := by
    refine Nat.div_lt_of_lt_mul ?_
    rw [← pow_add, Nat.sub_add_cancel hlen]
    exact c.isLt
  have hfield := streamNumber_in_chunk (o := 0) hc (by omega : 0 + len ≤ 16)
  rwa [add_zero, Nat.sub_zero, Nat.mod_eq_of_lt hlt] at hfield

/-- The low bits of a chunk. -/
theorem streamNumber_chunk_low {j o : Nat} {c : Chunk} (hc : chunks[j]? = some c) (ho : o ≤ 16) :
    streamNumber chunks (16 * j + o) (16 - o) = c.toNat % 2 ^ (16 - o) := by
  rw [streamNumber_in_chunk hc (by omega), Nat.sub_self, pow_zero, Nat.div_one]

end Stream

/-- Settles O41: an operand inside a chunk is a field of it, and any other one is the low bits of a chunk followed by
the top bits of the next. -/
theorem operandFieldStraddleFormula : Obligations.OperandFieldStraddleFormula := by
  unfold Obligations.OperandFieldStraddleFormula
  intro chunks d k hpos hd hlen j o c
  have hstart : k * d = 16 * j + o := (Nat.div_add_mod _ 16).symm
  have hget : ∀ m < chunks.length, chunks[m]? = some (chunks.getD m 0) := fun m hm => by simp [hm]
  rw [Nat.succ_mul] at hlen
  rw [operandField, hstart]
  split_ifs with hin
  · exact streamNumber_in_chunk (hget j (by omega)) hin
  · have ho : o < 16 := Nat.mod_lt _ (by norm_num)
    have hsplit : d = 16 - o + (d - (16 - o)) := by omega
    conv_lhs => rw [hsplit]
    rw [streamNumber_add, show 16 * j + o + (16 - o) = 16 * (j + 1) by omega,
      streamNumber_chunk_low (hget j (by omega)) ho.le, streamNumber_chunk_top (hget (j + 1) (by omega)) (by omega)]

section Held
variable {mode : ExtractMode} {d spare x : Nat} {t : State} {c : Chunk}

/-- The block holds the number `x` of `spare` bits that it has read and not used: as the pending bits in the carry mode,
at the top of `WORK` in the aligned mode. -/
def Held (mode : ExtractMode) (t : State) (spare x : Nat) : Prop :=
  match mode with
  | .aligned => 0 < spare → t.work.toNat = x * 2 ^ (16 - spare)
  | .carry => t.pendBits.toNat = spare ∧ t.pendVal.toNat = x

/-- The next extraction of the aligned mode finds its operand in `WORK`, or a whole chunk to read. -/
def AlignedAt (mode : ExtractMode) (d spare : Nat) (t : State) : Prop :=
  mode = .aligned → (t.k.val % (16 / d) = 0 ↔ spare < d) ∧ (spare < d → spare = 0)

/-- An operand that fits the held bits is their top. -/
theorem Held.extract_of_le (h : Held mode t spare x) (hx : x < 2 ^ spare) (hat : AlignedAt mode d spare t)
    (hpos : 1 ≤ d) (hle : d ≤ spare) (hspare : spare ≤ 15) :
    ∃ v u, extract mode d t = .ok (v, u) ∧ v.toNat = x / 2 ^ (spare - d) ∧
      Held mode u (spare - d) (x % 2 ^ (spare - d)) ∧ u.src = t.src := by
  cases mode with
  | aligned =>
    obtain ⟨hread, _⟩ := hat rfl
    have hwork : t.work.toNat = x * 2 ^ (16 - spare) := h (by omega)
    have hne : t.k.val % (16 / d) ≠ 0 := fun heq => absurd (hread.mp heq) (by omega)
    refine ⟨topBits t.work d, { t with work := t.work <<< d }, ?_, ?_, fun _ => ?_, rfl⟩
    · rw [extract, extractAligned_eq, refillWork_of_ne hne]
      rfl
    · rw [topBits_toNat (by omega), hwork, show 16 - d = 16 - spare + (spare - d) by omega, pow_add, mul_comm x,
        Nat.mul_div_mul_left _ _ (by positivity)]
    · have hshift : (t.work <<< d).toNat = x * 2 ^ (16 - spare) * 2 ^ d % 2 ^ 16 := by rw [shiftLeft_toNat, hwork]
      rw [hshift, mul_assoc, ← pow_add, show 16 - spare + d = 16 - (spare - d) by omega,
        show 2 ^ 16 = 2 ^ (spare - d) * 2 ^ (16 - (spare - d)) by rw [← pow_add]; congr 1; omega, Nat.mul_mod_mul_right]
  | carry =>
    obtain ⟨rfl, rfl⟩ := h
    obtain ⟨v, hrun, hv⟩ := extractCarry_of_le hx hle
    exact ⟨v, _, hrun, hv, ⟨(keepPending_small (by omega) _ _).1, lowBits_toNat (by omega)⟩, rfl⟩

/-- An operand that does not fit the held bits is all of them followed by the top of the next chunk. -/
theorem Held.extract_of_lt (h : Held mode t spare x) (hx : x < 2 ^ spare) (hat : AlignedAt mode d spare t)
    (hd : d ≤ 16) (hlt : spare < d) (hc : sourceAt t.src t.src.pos = .chunk c) :
    ∃ v u, extract mode d t = .ok (v, u) ∧ v.toNat = x * 2 ^ (d - spare) + c.toNat / 2 ^ (16 - (d - spare)) ∧
      Held mode u (16 - (d - spare)) (c.toNat % 2 ^ (16 - (d - spare))) ∧
      u.src = { t.src with pos := t.src.pos + 1 } := by
  cases mode with
  | aligned =>
    obtain ⟨hread, hnone⟩ := hat rfl
    obtain rfl : spare = 0 := hnone hlt
    obtain rfl : x = 0 := Nat.lt_one_iff.mp hx
    refine ⟨topBits c d, { countRead (advance t) with work := c <<< d }, ?_, ?_, fun _ => ?_, rfl⟩
    · rw [extract, extractAligned_eq, refillWork_of_eq (hread.mpr hlt), readChunk_chunk hc]
      rfl
    · rw [topBits_toNat hd, zero_mul, zero_add, Nat.sub_zero]
    · rw [Nat.sub_zero, show 16 - (16 - d) = d by omega]
      have hpow : 2 ^ 16 = 2 ^ (16 - d) * 2 ^ d := by rw [← pow_add, Nat.sub_add_cancel hd]
      exact (shiftLeft_toNat c d).trans (by rw [hpow, Nat.mul_mod_mul_right])
  | carry =>
    obtain ⟨rfl, rfl⟩ := h
    obtain ⟨f, hrun, hf⟩ := extractCarry_of_lt hd hx hlt
    rw [readChunk_chunk hc] at hrun
    exact ⟨f c, _, hrun, hf c, ⟨(keepPending_small (by omega) _ _).1, lowBits_toNat (by omega)⟩, rfl⟩

end Held

section Fields
variable {mode : ExtractMode} {d k n : Nat} {s t : State} {chunks : List Chunk}

/-- The spare bits end where the chunks read end. -/
theorem mul_add_spareBits (k d : Nat) : k * d + spareBits k d = 16 * chunksFor k d := by
  simp only [spareBits, chunksFor]
  omega

theorem spareBits_le (k d : Nat) : spareBits k d ≤ 15 := by
  simp only [spareBits, chunksFor]
  omega

/-- For a dimension dividing 16 no operand straddles two chunks. -/
theorem spareBits_eq_zero_of_lt (hdvd : 16 % d = 0) (h : spareBits k d < d) : spareBits k d = 0 := by
  have hmod : spareBits k d % d = 0 := by
    refine Nat.mod_eq_zero_of_dvd ((Nat.dvd_sub ?_ (Nat.dvd_mul_left d k)))
    exact (Nat.dvd_of_mod_eq_zero hdvd).mul_right _
  rwa [Nat.mod_eq_of_lt h] at hmod

theorem chunksFor_mono {k m : Nat} (h : k ≤ m) (d : Nat) : chunksFor k d ≤ chunksFor m d := by
  have hmul := Nat.mul_le_mul_right d h
  simp only [chunksFor]
  omega

/-- The bits held before operand `k`. -/
def heldNumber (chunks : List Chunk) (d k : Nat) : Nat := streamNumber chunks (k * d) (spareBits k d)

theorem heldNumber_lt (chunks : List Chunk) (d k : Nat) : heldNumber chunks d k < 2 ^ spareBits k d :=
  streamNumber_lt ..

/-- An operand that fits the held bits is their top, and the rest stays held. -/
theorem operandField_of_le (h : d ≤ spareBits k d) :
    heldNumber chunks d k / 2 ^ (spareBits k d - d) = operandField chunks d k ∧
      heldNumber chunks d k % 2 ^ (spareBits k d - d) = heldNumber chunks d (k + 1) := by
  have hlow := streamNumber_lt chunks (k * d + d) (spareBits k d - d)
  have hsplit : heldNumber chunks d k = operandField chunks d k * 2 ^ (spareBits k d - d) +
      streamNumber chunks (k * d + d) (spareBits k d - d) := by
    rw [operandField, ← streamNumber_add, Nat.add_sub_cancel' h, heldNumber]
  rw [hsplit, heldNumber, (chunksFor_succ_of_le h).2, Nat.succ_mul]
  refine ⟨?_, ?_⟩
  · rw [Nat.add_div_of_dvd_right (Nat.dvd_mul_left _ _), Nat.mul_div_cancel _ (by positivity),
      Nat.div_eq_of_lt hlow, add_zero]
  · rw [Nat.mul_add_mod_self_right, Nat.mod_eq_of_lt hlow]

/-- Any other operand is the held bits followed by the top of the next chunk, whose rest is held then. -/
theorem operandField_of_lt {c : Chunk} (hd : d ≤ 16) (h : spareBits k d < d) (hc : chunks[chunksFor k d]? = some c) :
    heldNumber chunks d k * 2 ^ (d - spareBits k d) + c.toNat / 2 ^ (16 - (d - spareBits k d)) =
        operandField chunks d k ∧
      c.toNat % 2 ^ (16 - (d - spareBits k d)) = heldNumber chunks d (k + 1) := by
  have hend := mul_add_spareBits k d
  refine ⟨?_, ?_⟩
  · rw [heldNumber, ← streamNumber_chunk_top hc (by omega), ← hend, ← streamNumber_add, Nat.add_sub_cancel' h.le,
      operandField]
  · rw [heldNumber, (chunksFor_succ_of_lt hd h).2, Nat.succ_mul,
      show k * d + d = 16 * chunksFor k d + (d - spareBits k d) by omega, streamNumber_chunk_low hc (by omega)]

end Fields

end Sys2Proof.Machine
end

section
/-! UNPACK over enough chunks (41_unpacker.md R101): it succeeds, and every operand it writes is its field of the
stream. -/

namespace Sys2Proof.Machine

section Chunks

theorem chunksAt_getElem {src : Source} {p count i : Nat} {chunks : List Chunk}
    (h : chunksAt src p count = some chunks) (hi : i < count) :
    ∃ c, chunks[i]? = some c ∧ sourceAt src (p + i) = .chunk c := by
  induction count generalizing p i chunks with
  | zero => exact absurd hi (Nat.not_lt_zero i)
  | succ count ih =>
    rw [chunksAt] at h
    split at h
    next v hv =>
      obtain ⟨vs, hvs, rfl⟩ := Option.map_eq_some_iff.mp h
      cases i with
      | zero => exact ⟨v, rfl, hv⟩
      | succ i =>
        rw [show p + (i + 1) = p + 1 + i by omega]
        exact ih hvs (Nat.lt_of_succ_lt_succ hi)
    next => cases h

end Chunks

section Unpacked
variable {mode : ExtractMode} {d k m : Nat} {s t u : State} {chunks : List Chunk}

/-- The part of the state that UNPACK does not write. -/
def outsideUnpack (s : State) : State :=
  { s with
    k := 0
    val := State.reset.val
    pendBits := 0
    pendVal := 0
    work := 0
    rdcnt := 0
    src := State.reset.src }

/-- Where UNPACK stands before operand `k` when no read has failed since it started from `s`: the first `k` fields of
the stream are written, and what was read beyond them is held. -/
structure UnpackedFields (mode : ExtractMode) (d : Nat) (chunks : List Chunk) (k : Nat) (s t : State) : Prop where
  src : t.src = { s.src with pos := s.src.pos + chunksFor k d }
  held : Held mode t (spareBits k d) (heldNumber chunks d k)
  frame : outsideUnpack t = outsideUnpack s
  written : ∀ (i : Nat) (hi : i < 9), i < k → (t.val[i]).toInt = operandField chunks d i
  kept : ∀ (i : Nat) (hi : i < 9), k ≤ i → t.val[i] = s.val[i]

theorem unpackedFields_zero (hbits : s.pendBits = 0) (hval : s.pendVal = 0) :
    UnpackedFields mode d chunks 0 s s where
  src := by simp [chunksFor]
  held := by
    cases mode with
    | aligned => simp [Held, spareBits, chunksFor]
    | carry => simp [Held, spareBits, chunksFor, heldNumber, streamNumber, hbits, hval]
  frame := rfl
  written _ _ h := absurd h (Nat.not_lt_zero _)
  kept _ _ _ := rfl

/-- An operand register holds the number of its field, whose sign bit it leaves 0. -/
theorem toInt_setWidth_chunk (v : Chunk) : (v.setWidth 64 : I64).toInt = v.toNat := by
  have hv := v.isLt
  have hnat : (v.setWidth 64 : I64).toNat = v.toNat := by
    rw [BitVec.toNat_setWidth]
    exact Nat.mod_eq_of_lt (by omega)
  rw [BitVec.toInt_eq_toNat_of_lt (by omega), hnat]

/-- Writing the operand just extracted. -/
theorem UnpackedFields.writeOperand {v : Chunk} (h : UnpackedFields mode d chunks k s t) (hk : k < 9)
    (hrun : Machine.extract mode d (setK k t) = .ok (v, u)) (hv : v.toNat = operandField chunks d k)
    (hsrc : u.src = { s.src with pos := s.src.pos + chunksFor (k + 1) d })
    (hheld : Held mode u (spareBits (k + 1) d) (heldNumber chunks d (k + 1))) :
    UnpackedFields mode d chunks (k + 1) s (Machine.writeOperand v u) := by
  have hframe := extract_frame hrun
  have hval : u.val = t.val := (congrArg State.val hframe :)
  have hkval : u.k.val = k := (congrArg (·.k.val) hframe).trans (Nat.mod_eq_of_lt hk)
  refine ⟨hsrc, ?_, (congrArg outsideUnpack hframe :).trans h.frame, fun i hi hik => ?_, fun i hi hki => ?_⟩
  · cases mode <;> exact hheld
  all_goals simp only [writeOperand_val, Vector.getElem_set, hkval, hval]
  · split_ifs with heq
    · rw [toInt_setWidth_chunk, hv, heq]
    · exact h.written i hi (by omega)
  · rw [if_neg (by omega)]
    exact h.kept i hi (by omega)

/-- One operand: the held bits, and a chunk when they are too few, make its field. -/
theorem UnpackedFields.extract (h : UnpackedFields mode d chunks k s t) (hpos : 1 ≤ d) (hd : d ≤ 16)
    (hdvd : mode = .aligned → 16 % d = 0) (hk : k < 9)
    (hchunk : spareBits k d < d →
      ∃ c, chunks[chunksFor k d]? = some c ∧ sourceAt s.src (s.src.pos + chunksFor k d) = .chunk c) :
    ∃ v u, Machine.extract mode d (setK k t) = .ok (v, u) ∧
      UnpackedFields mode d chunks (k + 1) s (Machine.writeOperand v u) := by
  have hkval : (setK k t).k.val = k := Nat.mod_eq_of_lt hk
  have hat : AlignedAt mode d (spareBits k d) (setK k t) := fun hmode => by
    rw [hkval]
    exact ⟨mod_eq_zero_iff_spareBits_lt hd (hdvd hmode), spareBits_eq_zero_of_lt (hdvd hmode)⟩
  have hheld : Held mode (setK k t) (spareBits k d) (heldNumber chunks d k) := by
    cases mode <;> exact h.held
  have hlt := heldNumber_lt chunks d k
  by_cases hle : d ≤ spareBits k d
  · obtain ⟨v, u, hrun, hv, hu, hsrc⟩ := hheld.extract_of_le hlt hat hpos hle (spareBits_le k d)
    obtain ⟨hchunks, hspare⟩ := chunksFor_succ_of_le hle
    obtain ⟨hfield, hrest⟩ := operandField_of_le (chunks := chunks) hle
    refine ⟨v, u, hrun, h.writeOperand hk hrun (hv.trans hfield) ?_ ?_⟩
    · rw [hsrc, hchunks]
      exact h.src
    · rwa [hspare, ← hrest]
  · have hread := Nat.lt_of_not_le hle
    obtain ⟨c, hc, hsource⟩ := hchunk hread
    have hsource' : sourceAt (setK k t).src (setK k t).src.pos = .chunk c := by rwa [setK_src, h.src]
    obtain ⟨v, u, hrun, hv, hu, hsrc⟩ := hheld.extract_of_lt hlt hat hd hread hsource'
    obtain ⟨hchunks, hspare⟩ := chunksFor_succ_of_lt hd hread
    obtain ⟨hfield, hrest⟩ := operandField_of_lt hd hread hc
    refine ⟨v, u, hrun, h.writeOperand hk hrun (hv.trans hfield) ?_ ?_⟩
    · rw [hsrc, hchunks, setK_src, h.src, ← Nat.add_assoc]
    · rwa [hspare, ← hrest]

/-- UNPACK writes the fields of the stream, one operand after the other. -/
theorem UnpackedFields.unpackFrom {left : Nat} (h : UnpackedFields mode d chunks k s t) (hpos : 1 ≤ d) (hd : d ≤ 16)
    (hdvd : mode = .aligned → 16 % d = 0) (hm : k + left = m) (hm9 : m ≤ 9)
    (hchunks : chunksAt s.src s.src.pos (chunksFor m d) = some chunks) :
    ∃ u, Machine.unpackFrom mode d left k t = .ok u ∧ UnpackedFields mode d chunks m s u := by
  induction left generalizing k t with
  | zero =>
    obtain rfl : k = m := hm
    exact ⟨t, rfl, h⟩
  | succ left ih =>
    obtain ⟨v, u, hrun, hu⟩ := h.extract hpos hd hdvd (by omega) fun hlt => by
      have hmono := chunksFor_mono (show k + 1 ≤ m by omega) d
      rw [(chunksFor_succ_of_lt hd hlt).1] at hmono
      exact chunksAt_getElem hchunks (Nat.lt_of_succ_le hmono)
    rw [unpackFrom_succ, hrun]
    exact ih hu (by omega)

end Unpacked

/-- UNPACK over enough chunks succeeds, with the fields of the stream, the chunks of its operands read (20_memory.md
R47) and what they hold beyond them pending (41_unpacker.md R107). -/
theorem unpack_of_chunks {mode : ExtractMode} {n d : Nat} {s : State} {chunks : List Chunk} (hn : n ≤ 8) (hpos : 1 ≤ d)
    (hd : d ≤ 16) (hdvd : mode = .aligned → 16 % d = 0) (hbits : s.pendBits = 0) (hval : s.pendVal = 0)
    (hchunks : chunksAt s.src s.src.pos (chunkCount n d) = some chunks) :
    ∃ t, unpack mode n d s = .ok t ∧ UnpackedFields mode d chunks (n + 1) s t ∧ UnpackedTo mode d (n + 1) s t := by
  obtain ⟨t, hrun, ht⟩ := (unpackedFields_zero (mode := mode) (d := d) (chunks := chunks) hbits hval).unpackFrom hpos hd
    hdvd (Nat.zero_add (n + 1)) (by omega) hchunks
  have hstart : UnpackedTo mode d 0 s s := ⟨by simp [ChunksRead, chunksFor], by simp [hbits, spareBits, chunksFor]⟩
  have hcount := unpackFrom_endsIn_unpackedTo hpos hd hdvd (show 0 + (n + 1) ≤ 9 by omega) hstart
  rw [hrun, Nat.zero_add] at hcount
  exact ⟨t, hrun, ht, hcount⟩

/-- Settles O40, from the fields that UNPACK writes and the chunks it counts. -/
theorem unpackWritesOperandFields : Obligations.UnpackWritesOperandFields := by
  unfold Obligations.UnpackWritesOperandFields
  intro mode n d s chunks hn hpos hd hdvd hbits hval hrdcnt hchunks
  obtain ⟨t, hrun, hfields, hcount⟩ := unpack_of_chunks hn hpos hd hdvd hbits hval hchunks
  have hle : chunkCount n d ≤ 9 := by
    have hmul : (n + 1) * d ≤ 9 * 16 := Nat.mul_le_mul (by omega) hd
    simp only [chunkCount]
    omega
  refine ⟨t, hrun, fun i hi => hfields.written i i.isLt (by omega), fun i hi => hfields.kept i i.isLt hi, ?_,
    hfields.src, fun hmode => ?_⟩
  · obtain ⟨_, hcnt⟩ := hcount.reads
    rw [hcnt, hrdcnt, BitVec.ofNat_eq_ofNat, BitVec.zero_add, BitVec.toNat_ofNat]
    exact Nat.mod_eq_of_lt (show chunkCount n d < 2 ^ 4 by omega)
  · rw [hcount.pending hmode]
    simp only [spareBits, chunksFor]
    omega

end Sys2Proof.Machine
end

section
/-! The reducer refines the reduction on sequences (43_evaluators.md R144 to R146). A part of the reducer is compared
with a reduction on sequences by `Computes`; the in-place list of the reducer is read back as a sequence by
`stateTail`. -/

namespace Sys2Proof.Machine

section Computes
variable {α β : Type} {P : α → State → Prop} {Q : β → State → Prop} {x : Except FaultKind α} {r : Except Halt State}
  {s t : State} {f : FaultKind}

/-- A part of the reducer begun in `s` ends as the reduction `x` does: in a state that `P` relates to its value, or in
the ALU fault that is its fault. It writes the reducer's registers only. -/
def Computes (s : State) (P : α → State → Prop) : Except FaultKind α → Except Halt State → Prop
  | .ok a, .ok t => P a t ∧ outsideReducer t = outsideReducer s
  | .error f, .error (.raised t) => IsAluFault f ∧ ∃ u, t = takeFault f u ∧ outsideReducer u = outsideReducer s
  | _, _ => False

theorem computes_raise (hf : IsAluFault f) (ht : outsideReducer t = outsideReducer s) :
    Computes s P (.error f) (raise f t) := ⟨hf, t, rfl, ht⟩

theorem Computes.of_outsideReducer (h : Computes t P x r) (ht : outsideReducer t = outsideReducer s) :
    Computes s P x r := by
  match x, r with
  | .ok _, .ok _ => exact ⟨h.1, h.2.trans ht⟩
  | .error _, .error (.raised _) =>
    obtain ⟨hf, u, hu, hframe⟩ := h
    exact ⟨hf, u, hu, hframe.trans ht⟩

/-- The rule of sequencing. -/
theorem Computes.andThen {y : α → Except FaultKind β} {g : State → Except Halt State} (h : Computes s P x r)
    (hg : ∀ a t, P a t → Computes t Q (y a) (g t)) : Computes s Q (x.bind y) (andThen r g) := by
  match x, r with
  | .ok a, .ok t => exact (hg a t h.1).of_outsideReducer h.2
  | .error _, .error (.raised _) => exact h

theorem Computes.mono {P' : α → State → Prop} (h : Computes s P x r) (hP : ∀ a t, P a t → P' a t) :
    Computes s P' x r := by
  match x, r with
  | .ok a, .ok t => exact ⟨hP a t h.1, h.2⟩
  | .error _, .error (.raised _) => exact h

theorem Computes.map {g : α → β} (h : Computes s P x r) (hPQ : ∀ a t, P a t → Q (g a) t) :
    Computes s Q (x.map g) r := by
  match x, r with
  | .ok a, .ok t => exact ⟨hPQ a t h.1, h.2⟩
  | .error _, .error (.raised _) => exact h

end Computes

section Sequences

theorem foldSeq_cons (v b : Int) (op : Op) (rest : ExprTail) :
    foldSeq v ((op, b) :: rest) = (alu op v b).bind fun r => foldSeq r rest := by
  rw [foldSeq]
  cases alu op v b <;> rfl

theorem pass1Seq_cons_high (v b : Int) {op : Op} (h : isHigh op = true) (rest : ExprTail) :
    pass1Seq v ((op, b) :: rest) = (alu op v b).bind fun r => pass1Seq r rest := by
  rw [pass1Seq, if_pos h]
  cases alu op v b <;> rfl

theorem pass1Seq_cons_low (v b : Int) {op : Op} (h : isHigh op = false) (rest : ExprTail) :
    pass1Seq v ((op, b) :: rest) = (pass1Seq b rest).map fun vr => (v, (op, vr.1) :: vr.2) := by
  rw [pass1Seq, if_neg (by simp [h])]
  cases pass1Seq b rest <;> rfl

theorem exprValue_prec (v : Int) (rest : ExprTail) :
    exprValue .prec v rest = (pass1Seq v rest).bind fun vr => foldSeq vr.1 vr.2 := by
  rw [exprValue]
  cases pass1Seq v rest <;> rfl

end Sequences

section StateTail
variable {s t : State} {j left : Nat}

/-- The expression in the reducer's registers after operand `j`: `left` operators from slot `j` on, each with the
operand to its right. -/
def stateTail (s : State) (left j : Nat) : ExprTail :=
  (List.range' j left).map fun i => (Op.ofCode s.wops[Fin.ofNat 8 i], (s.val[Fin.ofNat 9 (i + 1)]).toInt)

theorem getElem_ofNat {α : Type} {m i : Nat} [NeZero m] (v : Vector α m) (hi : i < m) : v[Fin.ofNat m i] = v[i] := by
  simp only [Fin.getElem_fin, Fin.val_ofNat, Nat.mod_eq_of_lt hi]

theorem stateTail_succ (hj : j < 8) :
    stateTail s (left + 1) j = (Op.ofCode s.wops[j], (s.val[j + 1]).toInt) :: stateTail s left (j + 1) := by
  rw [stateTail, List.range'_succ, List.map_cons, getElem_ofNat s.wops hj, getElem_ofNat s.val (by omega)]
  rfl

/-- The expression depends on its own slots only; here they may also stand one slot further left. -/
theorem stateTail_congr {j' : Nat} (hleft : j + left ≤ 8) (hleft' : j' + left ≤ 8)
    (hwops : ∀ (i : Nat) (hi : i < left), s.wops[j + i] = t.wops[j' + i])
    (hval : ∀ (i : Nat) (hi : i < left), s.val[j + i + 1] = t.val[j' + i + 1]) :
    stateTail s left j = stateTail t left j' := by
  induction left generalizing j j' with
  | zero => rfl
  | succ left ih =>
    have hop := hwops 0 (Nat.succ_pos left)
    have hv := hval 0 (Nat.succ_pos left)
    simp only [Nat.add_zero] at hop hv
    rw [stateTail_succ (by omega), stateTail_succ (by omega), hop, hv]
    refine congrArg _ (ih (by omega) (by omega) (fun i hi => ?_) fun i hi => ?_)
    · have h := hwops (i + 1) (Nat.succ_lt_succ hi)
      simpa only [Nat.add_assoc, Nat.add_comm 1] using h
    · have h := hval (i + 1) (Nat.succ_lt_succ hi)
      simpa only [Nat.add_assoc, Nat.add_comm 1] using h

end StateTail

section Fold
variable {s : State} {j left : Nat}

/-- An iteration of the fold is one ALU call. -/
theorem foldWith_computes (op : Op) {j : Fin 8} (hj : j.val < s.wlen.val) :
    Computes s (fun r t => t = { s with acc := BitVec.ofInt 64 r } ∧ t.acc.toInt = r)
      (alu op s.acc.toInt (s.val[j.val + 1]).toInt) (foldWith (alu op) j s) := by
  cases halu : alu op s.acc.toInt (s.val[j.val + 1]).toInt with
  | ok r =>
    obtain ⟨hlo, hhi⟩ := alu_ok_mem halu
    rw [foldWith_of_ok hj halu]
    exact ⟨⟨rfl, toInt_ofInt_of_mem hlo hhi⟩, rfl⟩
  | error k =>
    rw [foldWith_of_error hj halu]
    exact computes_raise (alu_error halu) rfl

/-- The fold of the registers is the fold of the sequence they hold (43_evaluators.md R145, R146). -/
theorem foldFrom_computes (h : j + left = s.wlen.val) :
    Computes s (fun r t => t.acc.toInt = r) (foldSeq s.acc.toInt (stateTail s left j)) (foldFrom left j s) := by
  induction left generalizing j s with
  | zero => exact ⟨rfl, rfl⟩
  | succ left ih =>
    have hwlen := s.wlen.isLt
    have hjval : (Fin.ofNat 8 j).val = j := Nat.mod_eq_of_lt (by omega)
    rw [foldFrom_succ, stateTail_succ (by omega), foldSeq_cons, getElem_ofNat s.wops (by omega)]
    have hstep := foldWith_computes (s := s) (Op.ofCode s.wops[j]) (j := Fin.ofNat 8 j) (by omega)
    simp only [hjval] at hstep
    refine hstep.andThen fun r t ⟨ht, hacc⟩ => ?_
    have hwlen' : t.wlen = s.wlen := by rw [ht]
    have htail : stateTail t left (j + 1) = stateTail s left (j + 1) := by
      rw [ht]
      rfl
    have hnext := ih (s := t) (j := j + 1) (by omega)
    rwa [hacc, htail] at hnext

theorem fold_computes (s : State) :
    Computes s (fun r t => t.acc.toInt = r) (foldSeq (s.val[0]).toInt (stateTail s s.wlen.val 0)) (fold s) :=
  (foldFrom_computes (s := { s with acc := s.val[0], phase := .fold }) (Nat.zero_add _)).of_outsideReducer rfl

end Fold

section Pass1
variable {s t : State} {left c : Nat} {op : Op}

/-- A scan of pass 1 begun in `s` at the cursor `c` has ended in `t`, with the operand `vr.1` in slot `c` and the
expression `vr.2` after it; the slots to the left of `c` are as they were. -/
structure Scanned (s : State) (c : Nat) (vr : Int × ExprTail) (t : State) : Prop where
  cur_le : c ≤ t.wlen.val
  head : ∀ hc : c < 9, (t.val[c]).toInt = vr.1
  tail : stateTail t (t.wlen.val - c) c = vr.2
  val : ∀ (i : Nat) (hi : i < 9), i < c → t.val[i] = s.val[i]
  wops : ∀ (i : Nat) (hi : i < 8), i < c → t.wops[i] = s.wops[i]

theorem stateTail_pass1Skip (s : State) (left j : Nat) : stateTail (pass1Skip s) left j = stateTail s left j := by
  rw [stateTail, stateTail, pass1Skip_wops, pass1Skip_val]

theorem outsideReducer_pass1Skip (s : State) : outsideReducer (pass1Skip s) = outsideReducer s :=
  applyOp_endsIn_outsideReducer .add .pass1 s

/-- An iteration of pass 1 at a Mul or Div is one ALU call. -/
theorem pass1Reduce_computes (op : Op) (h : s.cur.val < s.wlen.val) :
    Computes s (fun r t => t = pass1Replace r s ∧ -2 ^ 63 ≤ r ∧ r ≤ 2 ^ 63 - 1)
      (alu op (s.val[s.cur.val]).toInt (s.val[s.cur.val + 1]'(by omega)).toInt) (pass1Reduce (alu op) s) := by
  cases halu : alu op (s.val[s.cur.val]).toInt (s.val[s.cur.val + 1]'(by omega)).toInt with
  | ok r =>
    rw [pass1Reduce_of_ok h halu]
    exact ⟨⟨rfl, alu_ok_mem halu⟩, rfl⟩
  | error k =>
    rw [pass1Reduce_of_error h halu]
    exact computes_raise (alu_error halu) rfl

/-- Skipping an operator leaves it and the operand before it where they were. -/
theorem Scanned.of_skip {vr : Int × ExprTail} {u : State} (h : Scanned u (c + 1) vr t) (hc : c < 8)
    (hval : u.val = s.val) (hwops : u.wops = s.wops) :
    Scanned s c ((s.val[c]).toInt, (Op.ofCode s.wops[c], vr.1) :: vr.2) t where
  cur_le := by
    have hle := h.cur_le
    omega
  head _ := by rw [h.val c (by omega) (Nat.lt_succ_self c), hval]
  tail := by
    have hle := h.cur_le
    rw [show t.wlen.val - c = t.wlen.val - (c + 1) + 1 by omega, stateTail_succ hc, h.head (by omega), h.tail,
      h.wops c hc (Nat.lt_succ_self c), hwops]
  val i hi hlt := (h.val i hi (by omega)).trans (by rw [hval])
  wops i hi hlt := (h.wops i hi (by omega)).trans (by rw [hwops])

/-- The in-place compaction of pass 1 is the list reduction of R146: a reduced pair is the operand of the next
iteration at the same cursor, and a skipped operator stays in front of what the rest is reduced to. -/
theorem pass1From_computes (hcur : s.cur.val = c) (hc : c < 9) (h : c + left = s.wlen.val) :
    Computes s (Scanned s c) (pass1Seq (s.val[c]).toInt (stateTail s left c)) (pass1From left s) := by
  induction left generalizing c s with
  | zero =>
    have htail : stateTail s (s.wlen.val - c) c = [] := by
      rw [← h, Nat.add_zero, Nat.sub_self]
      rfl
    exact ⟨⟨h.le, fun _ => rfl, htail, fun _ _ _ => rfl, fun _ _ _ => rfl⟩, rfl⟩
  | succ left ih =>
    subst hcur
    have hwlen := s.wlen.isLt
    have hlt : s.cur.val < s.wlen.val := by omega
    rw [pass1From_succ hlt, stateTail_succ (by omega), applyOp_pass1]
    cases hhigh : isHigh (Op.ofCode s.wops[s.cur.val]) with
    | true =>
      rw [pass1Seq_cons_high _ _ hhigh, if_pos rfl]
      refine (pass1Reduce_computes _ hlt).andThen fun r t ⟨ht, hlo, hhi⟩ => ?_
      obtain ⟨hhead, hvalKept, hvalMoved, hwopsKept, hwopsMoved, hlen, _⟩ := pass1Replace_spec hlt hlo hhi
      rw [← ht] at hhead hvalKept hvalMoved hwopsKept hwopsMoved hlen
      have hcur : t.cur = s.cur := by rw [ht, pass1Replace_cur]
      have htail : stateTail t left s.cur.val = stateTail s left (s.cur.val + 1) := by
        refine stateTail_congr (by omega) (by omega) (fun i hi => ?_) fun i hi => ?_
        · rw [hwopsMoved (s.cur.val + i) (by omega) (by omega) (by omega)]
          simp only [Nat.add_right_comm]
        · rw [hvalMoved (s.cur.val + i + 1) (by omega) (by omega) (by omega)]
          simp only [Nat.add_right_comm]
      have hnext := ih (s := t) (congrArg Fin.val hcur) hc (by omega)
      rw [htail, show (t.val[s.cur.val]).toInt = r from hhead] at hnext
      exact hnext.mono fun vr v hv =>
        { hv with
          val := fun i hi hic => (hv.val i hi hic).trans (hvalKept ⟨i, hi⟩ (.inl hic))
          wops := fun i hi hic => (hv.wops i hi hic).trans (hwopsKept ⟨i, hi⟩ (.inl hic)) }
    | false =>
      rw [pass1Seq_cons_low _ _ hhigh, if_neg (by simp), andThen_ok]
      have hnext := ih (s := pass1Skip s) (pass1Skip_cur_val s hlt) (by omega) (by rw [pass1Skip_wlen]; omega)
      rw [stateTail_pass1Skip] at hnext
      simp only [pass1Skip_val] at hnext
      exact (hnext.of_outsideReducer (outsideReducer_pass1Skip s)).map fun vr t ht =>
        ht.of_skip (by omega) (pass1Skip_val s) (pass1Skip_wops s)

theorem pass1_computes (s : State) :
    Computes s (Scanned s 0) (pass1Seq (s.val[0]).toInt (stateTail s s.wlen.val 0)) (pass1 s) :=
  ((pass1From_computes (s := { s with cur := 0, phase := .pass1 }) rfl (Nat.succ_pos 8)
    (Nat.zero_add _)).of_outsideReducer (s := s) rfl).mono fun _ _ h => { h with }

/-- The reduction of an evaluation is that of the sequence in the reducer's registers (43_evaluators.md R146). -/
theorem reduce_computes (mode : EvalMode) (s : State) :
    Computes s (fun r t => t.acc.toInt = r) (exprValue mode (s.val[0]).toInt (stateTail s s.wlen.val 0))
      (andThen (reduceHigh mode s) fold) := by
  cases mode with
  | p2 => exact fold_computes s
  | gen => exact fold_computes s
  | prec =>
    rw [exprValue_prec]
    refine (pass1_computes s).andThen fun vr t ht => ?_
    have hfold := fold_computes t
    have htail := ht.tail
    rw [Nat.sub_zero] at htail
    rwa [ht.head (Nat.succ_pos 8), htail] at hfold

end Pass1

end Sys2Proof.Machine
end

section
/-! The outcome of an evaluation, by what the operand source answers (43_evaluators.md R140 to R146, 60_exceptions.md
R171 to R181): over enough chunks the value of the Instruction, or its first ALU fault; else the first answer that is
no chunk. -/

namespace Sys2Proof.Machine

section Outcomes
variable {mode : EvalMode} {s t u : State} {chunks : List Chunk} {reads good : Nat} {r : Int}

theorem HasRead.of_outsideReducer (h : HasRead s t reads) (hu : outsideReducer u = outsideReducer t) :
    HasRead s u reads where
  reads := h.reads.of_outsideReducer hu
  chunks := h.chunks
  res := (congrArg State.res hu :).trans h.res
  resValid := (congrArg State.resValid hu :).trans h.resValid
  keeps := by
    obtain ⟨hir, hword, hencC, hinbox, hlisted, htail⟩ := h.keeps
    exact ⟨(congrArg State.ir hu :).trans hir, (congrArg State.word hu :).trans hword,
      (congrArg State.encC hu :).trans hencC, (congrArg State.inbox hu :).trans hinbox,
      (congrArg (·.src.listed) hu :).trans hlisted, (congrArg (·.src.tail) hu :).trans htail⟩

/-- UNPACK over enough chunks has read exactly them. -/
theorem UnpackedFields.hasRead {emode : ExtractMode} {d k : Nat}
    (h : UnpackedFields emode d chunks k (startUnpack s) t)
    (hcount : UnpackedTo emode d k (startUnpack s) t)
    (hchunks : chunksAt s.src s.src.pos (chunksFor k d) = some chunks) :
    HasRead s t (chunksFor k d) where
  reads := hcount.reads
  chunks _ hi := sourceAt_of_chunksAt hchunks hi
  res := (congrArg State.res h.frame :)
  resValid := (congrArg State.resValid h.frame :)
  keeps := ⟨(congrArg State.ir h.frame :), (congrArg State.word h.frame :), (congrArg State.encC h.frame :),
    (congrArg State.inbox h.frame :), (congrArg Source.listed h.src :), (congrArg Source.tail h.src :)⟩

/-- `RDCNT` holds the number of chunks read, which is at most nine. -/
theorem HasRead.rdcnt_toNat (h : HasRead (clearResult s) u reads) (hle : reads ≤ 9) : u.rdcnt.toNat = reads := by
  obtain ⟨_, hcnt⟩ := h.reads
  rw [hcnt, clearResult_rdcnt, BitVec.ofNat_eq_ofNat, BitVec.zero_add, BitVec.toNat_ofNat]
  exact Nat.mod_eq_of_lt (by omega)

/-- How an evaluation that has read all its chunks ends: with the value `x`, or with the ALU fault that `x` is. -/
def Delivered (s t : State) (x : Except FaultKind Int) (reads : Nat) : Prop :=
  match x with
  | .ok r => evalReturned s t r reads
  | .error f => IsAluFault f ∧ evalFaulted s t f reads reads

theorem HasRead.evalReturned_writeResult (h : HasRead (clearResult s) u reads) (hle : reads ≤ 9)
    (hacc : u.acc.toInt = r) : evalReturned s (writeResult u) r reads :=
  ⟨rfl, rfl, rfl, hacc, h.rdcnt_toNat hle, h.reads.1, h.keeps⟩

theorem HasRead.evalFaulted_of_le (h : HasRead (clearResult s) u reads) (hle : reads ≤ 9) (f : FaultKind) :
    evalFaulted s (takeFault f u) f reads reads :=
  ⟨rfl, rfl, h.resValid, h.res, h.rdcnt_toNat hle, h.reads.1, h.keeps⟩

/-- After the reads an evaluation ends as its reduction does. -/
theorem HasRead.delivered {x : Except FaultKind Int} {run : Except Halt State} (h : HasRead (clearResult s) t reads)
    (hle : reads ≤ 9) (hrun : Computes t (fun r u => u.acc.toInt = r) x run) :
    ∃ u, finish (andThen run fun v => .ok (writeResult v)) = .next u ∧ Delivered s u x reads := by
  match x, run with
  | .ok r, .ok u =>
    obtain ⟨hacc, hframe⟩ := hrun
    exact ⟨_, rfl, (h.of_outsideReducer hframe).evalReturned_writeResult hle hacc⟩
  | .error f, .error (.raised _) =>
    obtain ⟨hf, u, rfl, hframe⟩ := hrun
    exact ⟨_, rfl, hf, (h.of_outsideReducer hframe).evalFaulted_of_le hle f⟩

theorem take_indices8 {n : Nat} (hn : n ≤ 8) : indices8.take n = (List.range' 0 n).map (Fin.ofNat 8) := by
  have hall : ∀ n : Fin 9, indices8.take n.val = (List.range' 0 n.val).map (Fin.ofNat 8) := by decide
  exact hall ⟨n, by omega⟩

/-- The registers after UNPACK hold the expression of the Instruction over the stream. -/
theorem stateTail_eq_exprTail {ir : Ir} (hwops : t.wops = ir.op)
    (hval : ∀ (i : Nat) (hi : i < 9), i < irN ir + 1 → (t.val[i]).toInt = operandField chunks (irD ir) i) :
    stateTail t (irN ir) 0 = exprTail ir chunks := by
  have hn := irN_le ir
  rw [exprTail, take_indices8 hn, List.map_map, stateTail]
  refine List.map_congr_left fun i hi => ?_
  have hlt : i < irN ir := by simpa using hi
  have hival : (Fin.ofNat 8 i).val = i := Nat.mod_eq_of_lt (by omega)
  rw [Function.comp_apply, getElem_ofNat t.val (by omega), hval (i + 1) (by omega) (by omega), hwops, hival]

/-- An evaluation that passes its checks over enough chunks ends with the value of the Instruction. -/
theorem exec_eval_of_chunks (hvalid : s.ir.valid = true) (hdvd : mode = .p2 → 16 % irD s.ir = 0)
    (hchunks : chunksAt s.src s.src.pos (chunkCount (irN s.ir) (irD s.ir)) = some chunks) :
    ∃ t, exec (evalInstr mode) s = .next t ∧
      Delivered s t (valueOf mode s.ir chunks) (chunkCount (irN s.ir) (irD s.ir)) := by
  obtain ⟨t, hrun, hfields, hcount⟩ := unpack_of_chunks (s := startUnpack (clearResult s)) (irN_le s.ir)
    (one_le_irD s.ir) (irD_le s.ir) (mod_irD_of_aligned hdvd) rfl rfl hchunks
  have hwops : t.wops = s.ir.op := (congrArg State.wops hfields.frame :)
  have hwlen : t.wlen.val = irN s.ir := (congrArg (·.wlen.val) hfields.frame :)
  have hvalue : valueOf mode s.ir chunks = exprValue mode (t.val[0]).toInt (stateTail t t.wlen.val 0) := by
    rw [valueOf, exprHead, hfields.written 0 (by omega) (Nat.succ_pos _), hwlen,
      stateTail_eq_exprTail hwops hfields.written]
  have hread : HasRead (clearResult s) t _ := hfields.hasRead hcount hchunks
  obtain ⟨u, hend, hu⟩ := hread.delivered (chunkCount_ir_le s.ir) (reduce_computes mode t)
  refine ⟨u, ?_, hvalue ▸ hu⟩
  rw [exec_evalInstr, eval_checked hvalid hdvd, evalBody, clearResult_ir, hrun, andThen_ok, ← hend, andThen_assoc]

end Outcomes

/-- Settles O42: the value under EVAL_P2 is the fold. -/
theorem evalP2ReturnsLeftToRightFold : Obligations.EvalP2ReturnsLeftToRightFold := by
  unfold Obligations.EvalP2ReturnsLeftToRightFold
  intro s chunks r hvalid hdvd hchunks hfold
  obtain ⟨t, hexec, ht⟩ := exec_eval_of_chunks (mode := .p2) hvalid (fun _ => hdvd) hchunks
  rw [show valueOf .p2 s.ir chunks = .ok r from hfold] at ht
  exact ⟨t, hexec, ht⟩

/-- Settles O43: the value under EVAL_GEN is the fold. -/
theorem evalGenReturnsLeftToRightFold : Obligations.EvalGenReturnsLeftToRightFold := by
  unfold Obligations.EvalGenReturnsLeftToRightFold
  intro s chunks r hvalid hchunks hfold
  obtain ⟨t, hexec, ht⟩ := exec_eval_of_chunks (mode := .gen) hvalid nofun hchunks
  rw [show valueOf .gen s.ir chunks = .ok r from hfold] at ht
  exact ⟨t, hexec, ht⟩

/-- Settles O44: the value under EVAL_PREC is the fold of what the reduction of Mul and Div leaves. -/
theorem evalPrecReturnsPrecedenceValue : Obligations.EvalPrecReturnsPrecedenceValue := by
  unfold Obligations.EvalPrecReturnsPrecedenceValue
  intro s chunks v r rest hvalid hchunks hpass1 hfold
  obtain ⟨t, hexec, ht⟩ := exec_eval_of_chunks (mode := .prec) hvalid nofun hchunks
  have hvalue : valueOf .prec s.ir chunks = .ok r := by
    rw [valueOf, exprValue_prec, hpass1]
    exact hfold
  rw [hvalue] at ht
  exact ⟨t, hexec, ht⟩

/-- Settles O45: the fault is the value of the Instruction, which its reads do not depend on. -/
theorem evalArithmeticFaultAfterAllReads : Obligations.EvalArithmeticFaultAfterAllReads := by
  unfold Obligations.EvalArithmeticFaultAfterAllReads
  intro mode s chunks f hvalid hdvd hchunks hvalue
  obtain ⟨t, hexec, ht⟩ := exec_eval_of_chunks hvalid hdvd hchunks
  rw [hvalue] at ht
  exact ⟨t, hexec, ht⟩

/-- Settles O49: the evaluation ends as the read that finds the malformed response, which consumes it. -/
theorem evalMalformedResponseFaults : Obligations.EvalMalformedResponseFaults := by
  unfold Obligations.EvalMalformedResponseFaults
  intro mode s good hvalid hdvd hlt hgood hmalformed
  obtain ⟨u, e, heval, hread, hu⟩ := eval_error_of_not_chunk hvalid hdvd hlt hgood (by simp [hmalformed])
  rw [readChunk_malformed (hu.sourceAt_pos.trans hmalformed)] at hread
  cases hread
  have hle := chunkCount_ir_le s.ir
  refine ⟨takeFault .malformedInput (advance u), ?_, rfl, rfl, hu.resValid, hu.res, hu.rdcnt_toNat (by omega),
    congrArg (· + 1) hu.reads.1, hu.keeps⟩
  rw [exec_evalInstr, heval, finish_raised]

/-- Settles O50: the evaluation ends as the read that is never answered. -/
theorem evalStallsOnSilentSource : Obligations.EvalStallsOnSilentSource := by
  unfold Obligations.EvalStallsOnSilentSource
  intro mode s good hvalid hdvd hlt hgood hnever
  obtain ⟨u, e, heval, hread, hu⟩ := eval_error_of_not_chunk hvalid hdvd hlt hgood (by simp [hnever])
  rw [readChunk_never (hu.sourceAt_pos.trans hnever)] at hread
  cases hread
  rw [exec_evalInstr, heval, finish_silent]

end Sys2Proof.Machine
end

section
/-! The agreements between the evaluators (43_evaluators.md R149) and what an evaluation depends on (20_memory.md R49).
An evaluation's outcome is fixed by its value over the chunks and by the source's answers, so two evaluations that have
the same value end alike. -/

namespace Sys2Proof.Machine

section SameObservation
variable {mode mode' : EvalMode} {s s' t t' : State} {chunks : List Chunk} {reads good taken : Nat}
  {x : Except FaultKind Int} {f : FaultKind} {r : Int}

theorem Source.ext_fields {a b : Source} (hlisted : a.listed = b.listed) (htail : a.tail = b.tail)
    (hpos : a.pos = b.pos) : a = b := by
  cases a
  cases b
  simp_all

/-- A faulted evaluation is seen through its fault and its reads. -/
theorem evalFaulted_hostView (h : evalFaulted s t f reads taken) (h' : evalFaulted s' t' f reads taken)
    (hir : s.ir = s'.ir) (hword : s.word = s'.word) (hres : s.res = s'.res) : hostView t = hostView t' := by
  obtain ⟨hstatus, _, hvalid, htres, hcnt, _, htir, htword, _⟩ := h
  obtain ⟨hstatus', _, hvalid', htres', hcnt', _, htir', htword', _⟩ := h'
  rw [hostView, hostView, htir, htir', htword, htword', htres, htres', hvalid, hvalid', hstatus, hstatus', hir, hword,
    hres, BitVec.eq_of_toNat_eq (hcnt.trans hcnt'.symm)]

/-- A successful evaluation is seen through its value and its reads. -/
theorem evalReturned_hostView (h : evalReturned s t r reads) (h' : evalReturned s' t' r reads)
    (hir : s.ir = s'.ir) (hword : s.word = s'.word) : hostView t = hostView t' := by
  obtain ⟨hstatus, _, hvalid, htres, hcnt, _, htir, htword, _⟩ := h
  obtain ⟨hstatus', _, hvalid', htres', hcnt', _, htir', htword', _⟩ := h'
  rw [hostView, hostView, htir, htir', htword, htword', BitVec.eq_of_toInt_eq (htres.trans htres'.symm), hvalid,
    hvalid', hstatus, hstatus', hir, hword, BitVec.eq_of_toNat_eq (hcnt.trans hcnt'.symm)]

theorem Delivered.hostView_eq (h : Delivered s t x reads) (h' : Delivered s' t' x reads) (hir : s.ir = s'.ir)
    (hword : s.word = s'.word) (hres : s.res = s'.res) : hostView t = hostView t' := by
  cases x with
  | ok r => exact evalReturned_hostView h h' hir hword
  | error f => exact evalFaulted_hostView h.2 h'.2 hir hword hres

theorem evalKeeps_src_eq (h : evalKeeps s t) (h' : evalKeeps s t') (hpos : t.src.pos = t'.src.pos) :
    t.src = t'.src := by
  obtain ⟨_, _, _, _, hlisted, htail⟩ := h
  obtain ⟨_, _, _, _, hlisted', htail'⟩ := h'
  exact Source.ext_fields (hlisted.trans hlisted'.symm) (htail.trans htail'.symm) hpos

theorem Delivered.src_eq (h : Delivered s t x reads) (h' : Delivered s t' x reads) : t.src = t'.src := by
  cases x with
  | ok r =>
    obtain ⟨_, _, _, _, _, hpos, hkeeps⟩ := h
    obtain ⟨_, _, _, _, _, hpos', hkeeps'⟩ := h'
    exact evalKeeps_src_eq hkeeps hkeeps' (hpos.trans hpos'.symm)
  | error f =>
    obtain ⟨_, _, _, _, _, _, hpos, hkeeps⟩ := h
    obtain ⟨_, _, _, _, _, _, hpos', hkeeps'⟩ := h'
    exact evalKeeps_src_eq hkeeps hkeeps' (hpos.trans hpos'.symm)

theorem evalFaulted_observed (h : evalFaulted s t f reads taken) (h' : evalFaulted s t' f reads taken) :
    observed (.next t) = observed (.next t') := by
  have hview := evalFaulted_hostView h h' rfl rfl rfl
  obtain ⟨_, _, _, _, _, hpos, hkeeps⟩ := h
  obtain ⟨_, _, _, _, _, hpos', hkeeps'⟩ := h'
  rw [observed, observed, hview, evalKeeps_src_eq hkeeps hkeeps' (hpos.trans hpos'.symm)]

/-- The next responses are all chunks, or there is a first one that is none. -/
theorem chunksAt_or_stop (src : Source) (p count : Nat) :
    (∃ chunks, chunksAt src p count = some chunks) ∨
      ∃ good < count, (∃ chunks, chunksAt src p good = some chunks) ∧ ∀ v, sourceAt src (p + good) ≠ .chunk v := by
  induction count generalizing p with
  | zero => exact .inl ⟨[], rfl⟩
  | succ count ih =>
    cases hans : sourceAt src p with
    | chunk v =>
      have hcons : ∀ {n vs}, chunksAt src (p + 1) n = some vs → chunksAt src p (n + 1) = some (v :: vs) := fun h => by
        rw [chunksAt, hans]
        exact congrArg (Option.map _) h
      rcases ih (p + 1) with ⟨vs, hvs⟩ | ⟨good, hlt, ⟨vs, hvs⟩, hstop⟩
      · exact .inl ⟨_, hcons hvs⟩
      · refine .inr ⟨good + 1, Nat.succ_lt_succ hlt, ⟨_, hcons hvs⟩, ?_⟩
        rwa [show p + (good + 1) = p + 1 + good by omega]
    | malformed => exact .inr ⟨0, Nat.succ_pos _, ⟨[], rfl⟩, by simp [hans]⟩
    | endOfInput => exact .inr ⟨0, Nat.succ_pos _, ⟨[], rfl⟩, by simp [hans]⟩
    | never => exact .inr ⟨0, Nat.succ_pos _, ⟨[], rfl⟩, by simp [hans]⟩

/-- Two evaluators that pass their checks and give the Instruction one value over every stream cannot be told apart. -/
theorem observed_eval_congr (hdvd : mode = .p2 → 16 % irD s.ir = 0) (hdvd' : mode' = .p2 → 16 % irD s.ir = 0)
    (hvalue : ∀ chunks, valueOf mode s.ir chunks = valueOf mode' s.ir chunks) :
    observed (exec (evalInstr mode) s) = observed (exec (evalInstr mode') s) := by
  cases hvalid : s.ir.valid with
  | false => rw [evalWithoutInstructionFaults mode s hvalid, evalWithoutInstructionFaults mode' s hvalid]
  | true =>
    rcases chunksAt_or_stop s.src s.src.pos (chunkCount (irN s.ir) (irD s.ir)) with
      ⟨chunks, hchunks⟩ | ⟨good, hlt, hgood, hstop⟩
    · obtain ⟨t, hexec, ht⟩ := exec_eval_of_chunks hvalid hdvd hchunks
      obtain ⟨t', hexec', ht'⟩ := exec_eval_of_chunks hvalid hdvd' hchunks
      rw [← hvalue] at ht'
      rw [hexec, hexec', observed, observed, ht.hostView_eq ht' rfl rfl rfl, ht.src_eq ht']
    · cases hans : sourceAt s.src (s.src.pos + good) with
      | chunk v => exact absurd hans (hstop v)
      | malformed =>
        obtain ⟨t, hexec, ht⟩ := evalMalformedResponseFaults mode s good hvalid hdvd hlt hgood hans
        obtain ⟨t', hexec', ht'⟩ := evalMalformedResponseFaults mode' s good hvalid hdvd' hlt hgood hans
        rw [hexec, hexec', evalFaulted_observed ht ht']
      | endOfInput =>
        obtain ⟨t, hexec, ht⟩ := evalShortSourceIsExhausted mode s good hvalid hdvd hlt hgood hans
        obtain ⟨t', hexec', ht'⟩ := evalShortSourceIsExhausted mode' s good hvalid hdvd' hlt hgood hans
        rw [hexec, hexec', evalFaulted_observed ht ht']
      | never =>
        rw [evalStallsOnSilentSource mode s good hvalid hdvd hlt hgood hans,
          evalStallsOnSilentSource mode' s good hvalid hdvd' hlt hgood hans]

end SameObservation

section LeadingMulDiv

/-- Every Mul and Div of the expression stands before every Add and Sub. -/
def MulDivLead (rest : ExprTail) : Prop := rest.Pairwise fun p q => isHigh q.1 = true → isHigh p.1 = true

/-- Pass 1 finds nothing to reduce. -/
theorem pass1Seq_of_low {v : Int} {rest : ExprTail} (h : ∀ p ∈ rest, isHigh p.1 = false) :
    pass1Seq v rest = .ok (v, rest) := by
  induction rest generalizing v with
  | nil => rfl
  | cons p rest ih =>
    obtain ⟨op, b⟩ := p
    rw [pass1Seq_cons_low v b (h _ List.mem_cons_self), ih fun q hq => h q (List.mem_cons_of_mem _ hq)]
    rfl

/-- What pass 1 reduces at the head of the expression the fold would have reduced first as well. -/
theorem exprValue_prec_of_lead {v : Int} {rest : ExprTail} (h : MulDivLead rest) :
    exprValue .prec v rest = foldSeq v rest := by
  rw [exprValue_prec]
  induction rest generalizing v with
  | nil => rfl
  | cons p rest ih =>
    obtain ⟨op, b⟩ := p
    obtain ⟨hhead, hrest⟩ := List.pairwise_cons.mp h
    cases hop : isHigh op with
    | true =>
      rw [pass1Seq_cons_high v b hop, foldSeq_cons]
      cases alu op v b with
      | ok r => exact ih hrest
      | error f => rfl
    | false =>
      have hlow : ∀ q ∈ (op, b) :: rest, isHigh q.1 = false := fun q hq => by
        rcases List.mem_cons.mp hq with rfl | hq
        · exact hop
        · exact Bool.eq_false_iff.mpr fun hhigh => absurd (hhead q hq hhigh) (by simp [hop])
      rw [pass1Seq_of_low hlow]
      rfl

theorem lt_of_mem_take_indices8 {n : Nat} (hn : n ≤ 8) {i : Fin 8} (hi : i ∈ indices8.take n) : i.val < n := by
  have hall : ∀ n : Fin 9, ∀ i ∈ indices8.take n.val, i.val < n.val := by decide
  exact hall ⟨n, Nat.lt_succ_of_le hn⟩ i hi

/-- Slots in order give the operators of the expression in order. -/
theorem mulDivLead_exprTail {ir : Ir} (chunks : List Chunk)
    (h : ∀ i j : Fin 8, i.val < j.val → j.val < irN ir → isHigh (Op.ofCode ir.op[j]) = true →
      isHigh (Op.ofCode ir.op[i]) = true) : MulDivLead (exprTail ir chunks) := by
  rw [MulDivLead, exprTail, List.pairwise_map]
  refine (indices8_pairwise.sublist (List.take_sublist _ _)).imp_of_mem fun {i j} _ hj hij => h i j hij ?_
  exact lt_of_mem_take_indices8 (irN_le ir) hj

end LeadingMulDiv

/-- Settles O54: both fold the operands from left to right. -/
theorem p2AgreesWithGen : Obligations.P2AgreesWithGen := fun _ hdvd =>
  observed_eval_congr (mode := .p2) (mode' := .gen) (fun _ => hdvd) nofun fun _ => rfl

/-- Settles O56: the operators stand in the expression as in the slots. -/
theorem precAgreesWithGenWhenMulDivLead : Obligations.PrecAgreesWithGenWhenMulDivLead := fun _ hlead =>
  observed_eval_congr (mode := .prec) (mode' := .gen) nofun nofun fun chunks =>
    exprValue_prec_of_lead (mulDivLead_exprTail chunks hlead)

/-- Settles O55: with no Mul and no Div, they stand before all else. -/
theorem precAgreesWithGenWithoutMulDiv : Obligations.PrecAgreesWithGenWithoutMulDiv := fun s hlow =>
  precAgreesWithGenWhenMulDivLead s fun _ j _ hj hhigh => absurd ((hlow j hj).symm.trans hhigh) nofun

section UnusedBits
variable {chunks chunks' : List Chunk}

/-- A number inside another one is a field of it. -/
theorem streamNumber_slice (chunks : List Chunk) (p len low : Nat) :
    streamNumber chunks p len = streamNumber chunks 0 (p + len + low) / 2 ^ low % 2 ^ len := by
  have hlow := streamNumber_lt chunks (p + len) low
  have hlen := streamNumber_lt chunks p len
  rw [streamNumber_add, Nat.zero_add, Nat.mul_comm, Nat.mul_add_div (by positivity), Nat.div_eq_of_lt hlow,
    Nat.add_zero, streamNumber_add, Nat.zero_add, Nat.mul_comm, Nat.mul_add_mod, Nat.mod_eq_of_lt hlen]

/-- The operands are fields of the first `(N+1)*D` bits (20_memory.md R49). -/
theorem operandField_congr {n d k : Nat} (hk : k ≤ n)
    (h : streamNumber chunks 0 ((n + 1) * d) = streamNumber chunks' 0 ((n + 1) * d)) :
    operandField chunks d k = operandField chunks' d k := by
  obtain ⟨m, rfl⟩ := Nat.exists_eq_add_of_le hk
  rw [show (k + m + 1) * d = k * d + d + m * d by ring] at h
  rw [operandField, operandField, streamNumber_slice chunks _ _ (m * d), streamNumber_slice chunks' _ _ (m * d), h]

theorem valueOf_congr (mode : EvalMode) (ir : Ir)
    (h : streamNumber chunks 0 ((irN ir + 1) * irD ir) = streamNumber chunks' 0 ((irN ir + 1) * irD ir)) :
    valueOf mode ir chunks = valueOf mode ir chunks' := by
  have htail : exprTail ir chunks = exprTail ir chunks' := List.map_congr_left fun i hi => by
    rw [operandField_congr (lt_of_mem_take_indices8 (irN_le ir) hi) h]
  rw [valueOf, valueOf, htail, exprHead, exprHead, operandField_congr (Nat.zero_le _) h]

end UnusedBits

/-- Settles O57: the checks do not look at the source, and the values are equal. -/
theorem evalIgnoresUnusedBits : Obligations.EvalIgnoresUnusedBits := by
  unfold Obligations.EvalIgnoresUnusedBits
  intro mode s src chunks chunks' hchunks hchunks' hbits
  rcases eval_cases mode s with ⟨hvalid, _⟩ | ⟨hvalid, rfl, hd, _⟩ | ⟨hvalid, hdvd, _⟩
  · rw [evalWithoutInstructionFaults mode s hvalid, evalWithoutInstructionFaults mode { s with src := src } hvalid]
    rfl
  · rw [exec_evalInstr, exec_evalInstr, eval_unsupported hvalid hd,
      eval_unsupported (s := { s with src := src }) hvalid hd]
    rfl
  · obtain ⟨t, hexec, ht⟩ := exec_eval_of_chunks hvalid hdvd hchunks
    obtain ⟨t', hexec', ht'⟩ := exec_eval_of_chunks (s := { s with src := src }) hvalid hdvd hchunks'
    rw [← valueOf_congr mode s.ir hbits] at ht'
    rw [hexec, hexec']
    exact congrArg some (ht.hostView_eq ht' rfl rfl rfl)

section AddSub

/-- An Add or Sub of small numbers moves the accumulator by at most the operand. -/
theorem alu_low {op : Op} {a b : Int} {A B : Nat} (hop : isHigh op = false) (ha : a.natAbs ≤ A) (hb : b.natAbs ≤ B)
    (hsmall : A + B < 2 ^ 63) : ∃ r, alu op a b = .ok r ∧ r.natAbs ≤ A + B := by
  cases op with
  | add => exact ⟨a + b, narrow_of_mem (by omega) (by omega), by omega⟩
  | sub => exact ⟨a - b, narrow_of_mem (by omega) (by omega), by omega⟩
  | mul => cases hop
  | div => cases hop

/-- Additions and subtractions of small operands stay small (42_alu.md R128). -/
theorem foldSeq_low {v : Int} {rest : ExprTail} {A B : Nat} (hv : v.natAbs ≤ A)
    (hrest : ∀ p ∈ rest, isHigh p.1 = false ∧ p.2.natAbs ≤ B) (hsmall : A + rest.length * B < 2 ^ 63) :
    ∃ r, foldSeq v rest = .ok r ∧ r.natAbs ≤ A + rest.length * B := by
  induction rest generalizing v A with
  | nil => exact ⟨v, rfl, by simpa using hv⟩
  | cons p rest ih =>
    obtain ⟨op, b⟩ := p
    obtain ⟨hop, hb⟩ := hrest _ List.mem_cons_self
    rw [List.length_cons, Nat.succ_mul, Nat.add_comm _ B, ← Nat.add_assoc] at hsmall ⊢
    obtain ⟨r, halu, hr⟩ := alu_low hop hv hb (by omega)
    rw [foldSeq_cons, halu]
    exact ih hr (fun q hq => hrest q (List.mem_cons_of_mem _ hq)) hsmall

theorem operandField_le {chunks : List Chunk} {d : Nat} (hd : d ≤ 16) (k : Nat) : operandField chunks d k ≤ 65535 := by
  have hlt := streamNumber_lt chunks (k * d) d
  have hpow : 2 ^ d ≤ 2 ^ 16 := Nat.pow_le_pow_right (by norm_num) hd
  rw [operandField]
  omega

/-- The value of an Instruction with Add and Sub only. -/
theorem valueOf_low {ir : Ir} (mode : EvalMode) (chunks : List Chunk)
    (hlow : ∀ i : Fin 8, i.val < irN ir → isHigh (Op.ofCode ir.op[i]) = false) :
    ∃ r, valueOf mode ir chunks = .ok r ∧ r.natAbs ≤ 9 * 65535 := by
  have hlead := mulDivLead_exprTail (ir := ir) chunks fun _ j _ hj hhigh => absurd ((hlow j hj).symm.trans hhigh) nofun
  have hfold : valueOf mode ir chunks = foldSeq (exprHead ir chunks) (exprTail ir chunks) := by
    cases mode with
    | p2 => rfl
    | gen => rfl
    | prec => exact exprValue_prec_of_lead hlead
  have hlen : (exprTail ir chunks).length ≤ 8 := by
    rw [exprTail, List.length_map]
    exact List.length_take_le' _ _
  have hfield := operandField_le (chunks := chunks) (irD_le ir)
  have hhead : (exprHead ir chunks).natAbs ≤ 65535 := by
    rw [exprHead, Int.natAbs_natCast]
    exact hfield 0
  have htail : ∀ p ∈ exprTail ir chunks, isHigh p.1 = false ∧ p.2.natAbs ≤ 65535 := fun p hp => by
    obtain ⟨i, hi, rfl⟩ := List.mem_map.mp hp
    rw [Int.natAbs_natCast]
    exact ⟨hlow i (lt_of_mem_take_indices8 (irN_le ir) hi), hfield _⟩
  obtain ⟨r, hr, hle⟩ := foldSeq_low hhead htail (by omega)
  exact ⟨r, hfold.trans hr, by omega⟩

end AddSub

/-- Settles O59: at most eight operands of 16 bits are added to the first. -/
theorem addSubEvaluationsNeverOverflow : Obligations.AddSubEvaluationsNeverOverflow := by
  unfold Obligations.AddSubEvaluationsNeverOverflow
  intro mode s hvalid hdvd hlow ⟨chunks, hchunks⟩
  obtain ⟨r, hvalue, hle⟩ := valueOf_low mode chunks hlow
  obtain ⟨t, hexec, ht⟩ := exec_eval_of_chunks hvalid hdvd hchunks
  rw [hvalue] at ht
  obtain ⟨hstatus, _, hres, hacc, _⟩ := ht
  exact ⟨t, hexec, hstatus, hres, hacc ▸ hle⟩

end Sys2Proof.Machine
end

section
/-! Totality and the invariant. What an evaluation can do is said once, by `exec_eval_cases`; that nothing else stops
and that every instruction and every step keeps the invariant follow by cases on the instruction. -/

namespace Sys2Proof.Machine

section EvaluationCases
variable {mode : EvalMode} {s t : State} {f : FaultKind}

/-- A failed check of an evaluation is a fault with nothing read (43_evaluators.md R140). -/
theorem evalFaulted_clearResult (s : State) (f : FaultKind) : evalFaulted s (takeFault f (clearResult s)) f 0 0 :=
  ⟨rfl, rfl, rfl, rfl, rfl, rfl, rfl, rfl, rfl, rfl, rfl, rfl⟩

theorem exec_eval_of_failed_check (h : eval mode s = raise f (clearResult s)) :
    ∃ t f good taken, exec (evalInstr mode) s = .next t ∧ evalFaulted s t f good taken ∧ good ≤ 9 :=
  ⟨_, f, 0, 0, by rw [exec_evalInstr, h, finish_raise], evalFaulted_clearResult s f, Nat.zero_le 9⟩

/-- Everything an evaluation can do: return a value, take a fault, or stall on a silent source; it counts at most nine
chunks. -/
theorem exec_eval_cases (mode : EvalMode) (s : State) :
    (∃ t r reads, exec (evalInstr mode) s = .next t ∧ evalReturned s t r reads ∧ reads ≤ 9) ∨
      (∃ t f good taken, exec (evalInstr mode) s = .next t ∧ evalFaulted s t f good taken ∧ good ≤ 9) ∨
      (exec (evalInstr mode) s = .fault .sourceSilent ∧ s.src.tail = .silent) := by
  have hle := chunkCount_ir_le s.ir
  rcases eval_cases mode s with ⟨_, heval⟩ | ⟨_, _, _, heval⟩ | ⟨hvalid, hdvd, _⟩
  · exact .inr (.inl (exec_eval_of_failed_check heval))
  · exact .inr (.inl (exec_eval_of_failed_check heval))
  rcases chunksAt_or_stop s.src s.src.pos (chunkCount (irN s.ir) (irD s.ir)) with
    ⟨chunks, hchunks⟩ | ⟨good, hlt, hgood, hstop⟩
  · obtain ⟨t, hexec, ht⟩ := exec_eval_of_chunks hvalid hdvd hchunks
    cases hvalue : valueOf mode s.ir chunks with
    | ok r =>
      rw [hvalue] at ht
      exact .inl ⟨t, r, _, hexec, ht, hle⟩
    | error f =>
      rw [hvalue] at ht
      exact .inr (.inl ⟨t, f, _, _, hexec, ht.2, hle⟩)
  · cases hans : sourceAt s.src (s.src.pos + good) with
    | chunk v => exact absurd hans (hstop v)
    | malformed =>
      obtain ⟨t, hexec, ht⟩ := evalMalformedResponseFaults mode s good hvalid hdvd hlt hgood hans
      exact .inr (.inl ⟨t, _, _, _, hexec, ht, by omega⟩)
    | endOfInput =>
      obtain ⟨t, hexec, ht⟩ := evalShortSourceIsExhausted mode s good hvalid hdvd hlt hgood hans
      exact .inr (.inl ⟨t, _, _, _, hexec, ht, by omega⟩)
    | never =>
      exact .inr (.inr ⟨evalStallsOnSilentSource mode s good hvalid hdvd hlt hgood hans, sourceAt_never hans⟩)

end EvaluationCases

section Kinds

/-- The instructions but the evaluations and the operators are the codec's. -/
def isCodec (i : Instr) : Prop := isEval i = false ∧ isOperator i = false

theorem isOperator_eq_true {i : Instr} (h : isOperator i = true) : ∃ op site, i = operatorInstr op site := by
  cases i with
  | add site => exact ⟨.add, site, rfl⟩
  | sub site => exact ⟨.sub, site, rfl⟩
  | mul site => exact ⟨.mul, site, rfl⟩
  | div site => exact ⟨.div, site, rfl⟩
  | _ => cases h

/-- An instruction is an evaluation, an operator of the reducer, or one of the codec. -/
theorem instr_cases (i : Instr) :
    (∃ mode, i = evalInstr mode) ∨ (∃ op site, i = operatorInstr op site) ∨ isCodec i := by
  cases heval : isEval i with
  | true => exact .inl (isEval_eq_true heval)
  | false =>
    cases hop : isOperator i with
    | true => exact .inr (.inl (isOperator_eq_true hop))
    | false => exact .inr (.inr ⟨heval, hop⟩)

end Kinds

section Codec
variable {s : State}

/-- The unused slots of `IR` are 0 (10_state.md R11). -/
def SlotsCleared (ir : Ir) : Prop := ∀ i : Fin 8, irN ir ≤ i.val → ir.op[i] = 0

theorem slotsCleared_decIr (w : Word32) : SlotsCleared (decIr w) := fun i hi => by
  have hop := decIr_op w i
  rw [if_neg (Nat.not_lt_of_le (irN_decIr w ▸ hi))] at hop
  exact BitVec.eq_of_toNat_eq hop

theorem slotsCleared_wordIr {nm1 : BitVec 3} {ops : List Op} (hlen : ops.length = nm1.toNat + 1) (dm1 : BitVec 4) :
    SlotsCleared (wordIr nm1 dm1 ops) := fun i hi => by
  have hnone : ops[i.val]? = none := List.getElem?_eq_none (hlen.trans_le hi)
  refine (slotsOf_get ops i).trans ?_
  rw [hnone]

theorem slotsCleared_encLoad {n : Nat} (hn : 1 ≤ n) (hn8 : n ≤ 8) (d : Nat) (s : State) :
    SlotsCleared (encLoad n d s).ir := fun i hi => by
  have hcount : irN (encLoad n d s).ir = n := by
    rw [irN, encLoad_ir, BitVec.toNat_ofNat]
    omega
  rw [hcount] at hi
  exact (keepFirst_get n s.encC i).trans (if_neg (Nat.not_lt_of_le hi))

/-- The three endings of an instruction of the codec: a fault with `IR` as it was; `STATUS` OK with the unused slots of
`IR` cleared; `IR` and `STATUS` both left alone. Only the fault writes `PHASE`. -/
def CodecEnds (s t : State) : Prop :=
  (t.phase = .idle ∧ (∃ f : FaultKind, t.status = f.code) ∧ t.ir = s.ir) ∨
    (t.phase = s.phase ∧ t.status = statusOk ∧ SlotsCleared t.ir) ∨
    (t.phase = s.phase ∧ t.status = s.status ∧ t.ir = s.ir)

theorem codecEnds_takeFault (f : FaultKind) (s : State) : CodecEnds s (takeFault f s) := .inl ⟨rfl, ⟨f, rfl⟩, rfl⟩

theorem codecEnds_loadIr {ir : Ir} (h : SlotsCleared ir) (s : State) : CodecEnds s (loadIr ir s) :=
  .inr (.inl ⟨rfl, rfl, h⟩)

theorem codecEnds_stageCode (i : Fin 8) (c : OpCode) (s : State) : CodecEnds s (stageCode i c s) :=
  .inr (.inr ⟨rfl, rfl, rfl⟩)

theorem exec_enc_codecEnds (n d : BitVec 8) (tok : Vector Token 8) (s : State) :
    ∃ t, exec (.enc n d tok) s = .next t ∧ CodecEnds s t := by
  rcases exec_enc_cases n d tok s with ⟨_, h⟩ | ⟨hrange, u, h, hu, _⟩ | ⟨_, u, h, hu, _⟩
  · exact ⟨_, h, .inl ⟨rfl, ⟨.outOfRange, rfl⟩, rfl⟩⟩
  · obtain ⟨hn, hn8, _, _⟩ := encInRange_iff.mp hrange
    have hphase : u.phase = s.phase := by rw [hu]
    exact ⟨_, h, .inr (.inl ⟨hphase, rfl, slotsCleared_encLoad hn hn8 d.toNat u⟩)⟩
  · have hir : u.ir = s.ir := by rw [hu]
    exact ⟨_, h, .inl ⟨rfl, ⟨.malformedInput, rfl⟩, hir⟩⟩

/-- Every instruction of the codec completes, in one of the three endings. -/
theorem exec_codecEnds {i : Instr} (hi : isCodec i) (s : State) : ∃ t, exec i s = .next t ∧ CodecEnds s t := by
  obtain ⟨heval, hop⟩ := hi
  cases i with
  | dec w =>
    by_cases hw : w = 0
    · rw [hw]
      exact ⟨_, exec_dec_zero s, codecEnds_takeFault ..⟩
    · exact ⟨_, exec_dec hw s, codecEnds_loadIr (slotsCleared_decIr w) s⟩
  | enc n d tok => exact exec_enc_codecEnds n d tok s
  | cmdReserved5 | cmdReserved6 | cmdReserved7 | zeroWord => exact ⟨_, rfl, codecEnds_takeFault ..⟩
  | expr1 | expr2 | expr3 | expr4 | expr5 | expr6 | expr7 | expr8 =>
    exact ⟨_, rfl, codecEnds_loadIr (slotsCleared_wordIr rfl _) s⟩
  | tokAdd i => exact ⟨_, rfl, codecEnds_stageCode i 0 s⟩
  | tokSub i => exact ⟨_, rfl, codecEnds_stageCode i 1 s⟩
  | tokMul i => exact ⟨_, rfl, codecEnds_stageCode i 2 s⟩
  | tokDiv i => exact ⟨_, rfl, codecEnds_stageCode i 3 s⟩
  | evalP2 | evalGen | evalPrec => cases heval
  | add | sub | mul | div => cases hop

end Codec

/-- Settles O7, by the three kinds of instruction. -/
theorem onlySilentSourceStops : Obligations.OnlySilentSourceStops := by
  unfold Obligations.OnlySilentSourceStops
  intro i s
  rcases instr_cases i with ⟨mode, rfl⟩ | ⟨op, site, rfl⟩ | hcodec
  · rcases exec_eval_cases mode s with ⟨t, _, _, hexec, _⟩ | ⟨t, _, _, _, hexec, _⟩ | ⟨hexec, htail⟩
    · exact .inl ⟨t, hexec⟩
    · exact .inl ⟨t, hexec⟩
    · exact .inr ⟨hexec, by cases mode <;> rfl, htail⟩
  · refine .inl ?_
    rw [exec_operatorInstr]
    rcases applyOp_cases op site s with ⟨t, hrun, _⟩ | ⟨f, _, hrun⟩ <;> rw [hrun]
    · exact ⟨t, rfl⟩
    · exact ⟨_, rfl⟩
  · obtain ⟨t, hexec, _⟩ := exec_codecEnds hcodec s
    exact .inl ⟨t, hexec⟩

section Pending
variable {s t : State} {r : Except Halt State}

/-- The pending value fits the pending bits (10_state.md R17). -/
def PendingFits (s : State) : Prop := s.pendVal.toNat < 2 ^ s.pendBits.toNat

/-- A part of a command that ends, ends with the pending value fitting, in success or in a fault. -/
def EndsPendingFits : Except Halt State → Prop
  | .ok t => PendingFits t
  | .error (.raised t) => PendingFits t
  | .error .silent => True

theorem EndsPendingFits.andThen {f : State → Except Halt State} (hr : EndsPendingFits r)
    (hf : ∀ t, PendingFits t → EndsPendingFits (f t)) : EndsPendingFits (andThen r f) := by
  match r with
  | .ok t => exact hf t hr
  | .error (.raised _) => exact hr
  | .error .silent => trivial

/-- A read leaves the pending registers alone, also when it fails. -/
theorem readChunk_error_pendingFits {e : Halt} (h : PendingFits s) (hread : readChunk s = .error e) :
    EndsPendingFits (.error e) := by
  rcases readChunk_cases s with ⟨_, _, hrun⟩ | ⟨_, hrun⟩ | ⟨_, hrun⟩ | ⟨_, hrun⟩ <;> cases hrun.symm.trans hread
  · exact h
  · exact h
  · trivial

/-- An extraction keeps 41_unpacker.md R106 (c): the carry mode by what it keeps pending, the aligned mode by touching
no pending bit. -/
theorem extract_pendingFits {mode : ExtractMode} {d : Nat} {v : Chunk} (hpos : 1 ≤ d) (hd : d ≤ 16) (h : PendingFits s)
    (hrun : extract mode d s = .ok (v, t)) : PendingFits t := by
  cases mode with
  | aligned =>
    obtain ⟨u, hrefill, ht⟩ := andThen_eq_ok.mp hrun
    cases ht
    rw [refillWork] at hrefill
    split at hrefill
    · obtain ⟨⟨c, w⟩, hread, hu⟩ := andThen_eq_ok.mp hrefill
      obtain ⟨_, rfl⟩ := readChunk_eq_ok.mp hread
      cases hu
      exact h
    · cases hrefill
      exact h
  | carry =>
    obtain ⟨c, u, _, rfl⟩ := extractCarry_eq_ok_keepPending hpos hd hrun
    obtain ⟨hbits, hval⟩ := keepPending_small (pendingAfter_le s.pendBits.toNat d) c u
    rwa [PendingFits, hbits]

theorem unpackFrom_pendingFits {mode : ExtractMode} {d : Nat} (hpos : 1 ≤ d) (hd : d ≤ 16) (left k : Nat)
    (h : PendingFits s) : EndsPendingFits (unpackFrom mode d left k s) := by
  induction left generalizing k s with
  | zero => exact h
  | succ left ih =>
    rw [unpackFrom_succ]
    have hset : PendingFits (setK k s) := h
    cases hrun : extract mode d (setK k s) with
    | ok vu =>
      have hfits : PendingFits vu.2 := extract_pendingFits hpos hd hset hrun
      exact ih (k + 1) hfits
    | error e => exact readChunk_error_pendingFits hset (extract_error hrun)

/-- The reducer does not write the pending registers. -/
theorem PendingFits.of_outsideReducer (h : PendingFits s) (ht : outsideReducer t = outsideReducer s) :
    PendingFits t := by
  have hbits : t.pendBits = s.pendBits := (congrArg State.pendBits ht :)
  have hval : t.pendVal = s.pendVal := (congrArg State.pendVal ht :)
  rwa [PendingFits, hbits, hval]

theorem Computes.endsPendingFits {P : Int → State → Prop} {x : Except FaultKind Int} (hrun : Computes s P x r)
    (h : PendingFits s) : EndsPendingFits r := by
  match x, r with
  | .ok _, .ok _ => exact h.of_outsideReducer hrun.2
  | .error _, .error (.raised _) =>
    obtain ⟨_, u, rfl, hframe⟩ := hrun
    exact h.of_outsideReducer hframe

theorem eval_pendingFits (mode : EvalMode) (h : PendingFits s) : EndsPendingFits (eval mode s) := by
  rcases eval_cases mode s with ⟨_, heval⟩ | ⟨_, _, _, heval⟩ | ⟨_, _, heval⟩ <;> rw [heval]
  · exact h
  · exact h
  · have hstart : PendingFits (startUnpack (clearResult s)) := by simp [PendingFits]
    refine (unpackFrom_pendingFits (one_le_irD s.ir) (irD_le s.ir) _ _ hstart).andThen fun t ht => ?_
    rw [← andThen_assoc]
    exact ((reduce_computes mode t).endsPendingFits ht).andThen fun u hu => hu

end Pending

section Invariant
variable {s t : State}

theorem FaultKind.code_le (f : FaultKind) : f.code.toNat ≤ 8 := by
  cases f <;> decide

theorem evalInstr_keeps_inv (mode : EvalMode) (h : s.Inv) (hnext : exec (evalInstr mode) s = .next t) : t.Inv := by
  obtain ⟨_, _, _, hslots, hpending⟩ := h
  have hfits : PendingFits t := by
    have hends := eval_pendingFits mode (s := s) hpending
    rw [exec_evalInstr] at hnext
    rcases finish_eq_next.mp hnext with hrun | hrun <;> rwa [hrun] at hends
  rcases exec_eval_cases mode s with ⟨_, _, _, hexec, hu, hle⟩ | ⟨_, f, _, _, hexec, hu, hle⟩ | ⟨hexec, _⟩ <;>
    cases hexec.symm.trans hnext
  · obtain ⟨hstatus, hphase, _, _, hcnt, _, hir, _⟩ := hu
    exact ⟨hphase, hstatus ▸ Nat.zero_le _, hcnt.trans_le hle, hir ▸ hslots, hfits⟩
  · obtain ⟨hstatus, hphase, _, _, hcnt, _, hir, _⟩ := hu
    exact ⟨hphase, hstatus ▸ f.code_le, hcnt.trans_le hle, hir ▸ hslots, hfits⟩

theorem operatorInstr_keeps_inv (op : Op) (site : AluSite) (h : s.Inv)
    (hnext : exec (operatorInstr op site) s = .next t) : t.Inv := by
  obtain ⟨hphase, hstatus, hcnt, hslots, hpending⟩ := h
  obtain ⟨hframe, hends⟩ := operatorFrame op site s t hnext
  rcases hends with ⟨htstatus, htphase⟩ | rfl | rfl
  · have hir : t.ir = s.ir := (congrArg State.ir hframe :)
    have hrdcnt : t.rdcnt = s.rdcnt := (congrArg State.rdcnt hframe :)
    exact ⟨htphase.trans hphase, htstatus ▸ hstatus, hrdcnt ▸ hcnt, hir ▸ hslots,
      PendingFits.of_outsideReducer hpending hframe⟩
  · exact ⟨rfl, FaultKind.code_le .divideByZero, hcnt, hslots, hpending⟩
  · exact ⟨rfl, FaultKind.code_le .overflow, hcnt, hslots, hpending⟩

theorem codecInstr_keeps_inv {i : Instr} (hi : isCodec i) (h : s.Inv) (hnext : exec i s = .next t) : t.Inv := by
  obtain ⟨hphase, hstatus, hcnt, hslots, hpending⟩ := h
  have hframe := codecFrame i s t hi.1 hi.2 hnext
  have hrdcnt : t.rdcnt = s.rdcnt := (congrArg State.rdcnt hframe :)
  have hbits : t.pendBits = s.pendBits := (congrArg State.pendBits hframe :)
  have hval : t.pendVal = s.pendVal := (congrArg State.pendVal hframe :)
  obtain ⟨u, hexec, hu⟩ := exec_codecEnds hi s
  cases hexec.symm.trans hnext
  rw [State.Inv, hrdcnt, hbits, hval]
  rcases hu with ⟨htphase, ⟨f, htstatus⟩, hir⟩ | ⟨htphase, htstatus, hcleared⟩ | ⟨htphase, htstatus, hir⟩
  · exact ⟨htphase, htstatus ▸ f.code_le, hcnt, hir ▸ hslots, hpending⟩
  · exact ⟨htphase.trans hphase, htstatus ▸ Nat.zero_le _, hcnt, hcleared, hpending⟩
  · exact ⟨htphase.trans hphase, htstatus ▸ hstatus, hcnt, hir ▸ hslots, hpending⟩

end Invariant

/-- Settles O5, by the three kinds of instruction. -/
theorem everyInstructionKeepsInvariant : Obligations.EveryInstructionKeepsInvariant := by
  unfold Obligations.EveryInstructionKeepsInvariant
  intro i s t h hnext
  rcases instr_cases i with ⟨mode, rfl⟩ | ⟨op, site, rfl⟩ | hcodec
  · exact evalInstr_keeps_inv mode h hnext
  · exact operatorInstr_keeps_inv op site h hnext
  · exact codecInstr_keeps_inv hcodec h hnext

/-- Settles O6, by everything a step can be. -/
theorem everyStepKeepsInvariant : Obligations.EveryStepKeepsInvariant := by
  unfold Obligations.EveryStepKeepsInvariant
  intro s t h hnext
  rcases step_cases s with ⟨_, hstep⟩ | ⟨p, rest, _, hstep⟩ | ⟨rest, _, hstep⟩ | ⟨src, rest, _, hstep⟩ <;>
    rw [hstep] at hnext
  · cases hnext
    exact h
  · exact everyInstructionKeepsInvariant _ { s with inbox := rest } t h hnext
  · cases hnext
    exact resetStateMeetsInvariant
  · cases hnext
    exact h

end Sys2Proof.Machine
end

section
/-! No command reads `STATUS` (10_state.md R20, decision D24). Each part of a command, run with another `STATUS`, ends
as it would have, with that other `STATUS` where it ends in no fault; every command writes `STATUS` before it ends. -/

namespace Sys2Proof.Machine

section WithStatus
variable {α : Type} (x : BitVec 4) (s : State)

/-- The state with another `STATUS`. -/
def withStatus (x : BitVec 4) (s : State) : State := { s with status := x }

/-- A part of a command does not read `STATUS`: with another one it ends the same, and hands that one on. -/
def StatusBlind (run : State → Except Halt State) : Prop :=
  ∀ (x : BitVec 4) (s : State), run (withStatus x s) = andThen (run s) fun t => .ok (withStatus x t)

theorem StatusBlind.andThen {f g : State → Except Halt State} (hf : StatusBlind f) (hg : StatusBlind g) :
    StatusBlind fun s => andThen (f s) g := fun x s => by
  change Machine.andThen (f (withStatus x s)) g = _
  rw [hf x s, andThen_assoc, andThen_assoc]
  exact congrArg _ (funext fun t => hg x t)

/-- A command that writes `STATUS` after such a part does not see the one it began with. -/
theorem StatusBlind.overwrite {f : State → Except Halt State} (hf : StatusBlind f) {g : State → State} (x : BitVec 4)
    (s : State) (hg : ∀ t, g (withStatus x t) = g t) :
    (Machine.andThen (f (withStatus x s)) fun t => .ok (g t)) = Machine.andThen (f s) fun t => .ok (g t) := by
  rw [hf x s, andThen_assoc]
  exact congrArg _ (funext fun t => congrArg Except.ok (hg t))

theorem readChunk_withStatus :
    readChunk (withStatus x s) = andThen (readChunk s) fun r => .ok (r.1, withStatus x r.2) := by
  rcases readChunk_cases s with ⟨v, h, hrun⟩ | ⟨h, hrun⟩ | ⟨h, hrun⟩ | ⟨h, hrun⟩ <;> rw [hrun]
  · exact readChunk_chunk (s := withStatus x s) h
  · exact readChunk_malformed (s := withStatus x s) h
  · exact readChunk_endOfInput (s := withStatus x s) h
  · exact readChunk_never (s := withStatus x s) h

theorem refillWork_statusBlind (d : Nat) : StatusBlind (refillWork d) := fun x s => by
  by_cases h : s.k.val % (16 / d) = 0
  · rw [refillWork_of_eq h, refillWork_of_eq (s := withStatus x s) h, readChunk_withStatus, andThen_assoc,
      andThen_assoc]
    rfl
  · rw [refillWork_of_ne h, refillWork_of_ne (s := withStatus x s) h]
    rfl

theorem extract_withStatus (mode : ExtractMode) {d : Nat} (hpos : 1 ≤ d) :
    extract mode d (withStatus x s) = andThen (extract mode d s) fun r => .ok (r.1, withStatus x r.2) := by
  cases mode with
  | aligned =>
    rw [extract, extract, extractAligned_eq, extractAligned_eq, refillWork_statusBlind, andThen_assoc, andThen_assoc]
    rfl
  | carry =>
    rw [extract, extract]
    by_cases hle : d ≤ s.pendBits.toNat
    · rw [extractCarry_pending hle, extractCarry_pending (s := withStatus x s) hle]
      rfl
    by_cases hzero : s.pendBits.toNat = 0
    · rw [extractCarry_fresh hpos hzero, extractCarry_fresh (s := withStatus x s) hpos hzero, readChunk_withStatus,
        andThen_assoc, andThen_assoc]
      rfl
    · have hlt := Nat.lt_of_not_le hle
      rw [extractCarry_straddle hzero hlt, extractCarry_straddle (s := withStatus x s) hzero hlt, readChunk_withStatus,
        andThen_assoc, andThen_assoc]
      rfl

theorem unpackFrom_statusBlind (mode : ExtractMode) {d : Nat} (hpos : 1 ≤ d) (left k : Nat) :
    StatusBlind (unpackFrom mode d left k) := by
  induction left generalizing k with
  | zero => exact fun _ _ => rfl
  | succ left ih =>
    intro x s
    rw [unpackFrom_succ, unpackFrom_succ, show setK k (withStatus x s) = withStatus x (setK k s) by rfl,
      extract_withStatus x _ mode hpos, andThen_assoc, andThen_assoc]
    exact congrArg _ (funext fun r => ih (k + 1) x (writeOperand r.1 r.2))

theorem foldWith_statusBlind (f : Int → Int → Except FaultKind Int) (j : Fin 8) : StatusBlind (foldWith f j) := by
  intro x s
  rcases foldWith_cases f j s with ⟨h, hrun⟩ | ⟨h, r, hf, hrun⟩ | ⟨h, k, hf, hrun⟩ <;> rw [hrun]
  · exact foldWith_of_le (s := withStatus x s) f h
  · exact foldWith_of_ok (s := withStatus x s) h hf
  · exact foldWith_of_error (s := withStatus x s) h hf

theorem pass1Reduce_statusBlind (f : Int → Int → Except FaultKind Int) : StatusBlind (pass1Reduce f) := by
  intro x s
  rcases pass1Reduce_cases f s with ⟨h, hrun⟩ | ⟨h, ⟨r, hf, hrun⟩ | ⟨k, hf, hrun⟩⟩ <;> rw [hrun]
  · exact pass1Reduce_of_le (s := withStatus x s) f h
  · exact pass1Reduce_of_ok (s := withStatus x s) h hf
  · exact pass1Reduce_of_error (s := withStatus x s) h hf

theorem pass1Skip_withStatus : pass1Skip (withStatus x s) = withStatus x (pass1Skip s) := by
  by_cases h : s.cur.val < s.wlen.val
  · rw [pass1Skip, pass1Skip, dif_pos h]
    exact dif_pos h
  · rw [pass1Skip_of_le (Nat.le_of_not_lt h)]
    exact dif_neg h

theorem applyOp_pass1_statusBlind (op : Op) : StatusBlind (applyOp op .pass1) := by
  intro x s
  rw [applyOp_pass1, applyOp_pass1]
  split_ifs
  · exact pass1Reduce_statusBlind (alu op) x s
  · rw [pass1Skip_withStatus]
    rfl

theorem pass1From_statusBlind (steps : Nat) : StatusBlind (pass1From steps) := by
  induction steps with
  | zero => exact fun _ _ => rfl
  | succ steps ih =>
    intro x s
    by_cases h : s.cur.val < s.wlen.val
    · rw [pass1From_succ h, pass1From_succ (s := withStatus x s) h]
      exact (applyOp_pass1_statusBlind _).andThen ih x s
    · rw [pass1From_done (Nat.le_of_not_lt h)]
      exact pass1From_done (s := withStatus x s) (Nat.le_of_not_lt h)

theorem foldFrom_statusBlind (left j : Nat) : StatusBlind (foldFrom left j) := by
  induction left generalizing j with
  | zero => exact fun _ _ => rfl
  | succ left ih =>
    intro x s
    rw [foldFrom_succ, foldFrom_succ]
    exact (foldWith_statusBlind _ _).andThen (ih (j + 1)) x s

theorem reduceHigh_statusBlind (mode : EvalMode) : StatusBlind (reduceHigh mode) := fun x s => by
  cases mode with
  | p2 => rfl
  | gen => rfl
  | prec => exact pass1From_statusBlind s.wlen.val x { s with cur := 0, phase := .pass1 }

theorem fold_statusBlind : StatusBlind fold := fun x s =>
  foldFrom_statusBlind s.wlen.val 0 x { s with acc := s.val[0], phase := .fold }

/-- An evaluation overwrites `STATUS`, whatever its ending. -/
theorem eval_withStatus (mode : EvalMode) : eval mode (withStatus x s) = eval mode s := by
  have hrun : StatusBlind fun t => andThen (unpack (extractModeOf mode) (irN s.ir) (irD s.ir) t) fun u =>
      andThen (reduceHigh mode u) fold :=
    (unpackFrom_statusBlind (extractModeOf mode) (one_le_irD s.ir) (irN s.ir + 1) 0).andThen
      ((reduceHigh_statusBlind mode).andThen fold_statusBlind)
  have hbody := hrun.overwrite (g := writeResult) x (startUnpack (clearResult s)) fun _ => rfl
  simp only [andThen_assoc] at hbody
  rw [eval, eval, evalBody, evalBody]
  exact congrArg (ite _ _) (congrArg (ite _ _) hbody)

theorem stageToken_statusBlind (i : Fin 8) (t : Token) : StatusBlind (stageToken i t) := fun x s => by
  rw [stageToken, stageToken]
  cases tokOp t <;> rfl

theorem stageTokens_statusBlind (n : Nat) (tok : Vector Token 8) (l : List (Fin 8)) :
    StatusBlind (stageTokens n tok l) := by
  induction l with
  | nil => exact fun _ _ => rfl
  | cons i rest ih =>
    intro x s
    rw [stageTokens, stageTokens]
    split_ifs
    · exact (stageToken_statusBlind i tok[i]).andThen ih x s
    · rfl

end WithStatus

/-- Settles O27: ENC and the evaluations overwrite `STATUS` after parts that do not read it, the others at once. -/
theorem commandsOverwriteStatus : Obligations.CommandsOverwriteStatus := by
  unfold Obligations.CommandsOverwriteStatus
  intro i s x hi
  cases i with
  | dec w =>
    by_cases hw : w = 0
    · rw [hw]
      rfl
    · rw [exec_dec hw, exec_dec hw]
      rfl
  | enc n d tok =>
    cases hrange : encInRange n.toNat d.toNat with
    | false =>
      rw [exec_enc_out_of_range hrange, exec_enc_out_of_range hrange]
      rfl
    | true =>
      rw [exec_enc_in_range hrange, exec_enc_in_range hrange]
      exact congrArg finish ((stageTokens_statusBlind n.toNat tok indices8).overwrite x s fun _ => rfl)
  | evalP2 => exact congrArg finish (eval_withStatus x s .p2)
  | evalGen => exact congrArg finish (eval_withStatus x s .gen)
  | evalPrec => exact congrArg finish (eval_withStatus x s .prec)
  | cmdReserved5 => rfl
  | cmdReserved6 => rfl
  | cmdReserved7 => rfl
  | _ => cases hi

/-- A fault taken before an evaluation does not change it: the evaluation sets `PHASE` and `STATUS` itself. -/
theorem eval_takeFault (mode : EvalMode) (f : FaultKind) (s : State) : eval mode (takeFault f s) = eval mode s :=
  eval_withStatus f.code { s with phase := .idle } mode

/-- Settles O60: the failed DEC wrote `PHASE` and `STATUS` only. -/
theorem failedDecKeepsInstructionInForce : Obligations.FailedDecKeepsInstructionInForce := by
  unfold Obligations.FailedDecKeepsInstructionInForce
  intro mode s t hnext
  cases (exec_dec_zero s).symm.trans hnext
  refine ⟨rfl, FaultKind.code_ne_statusOk .outOfRange, ?_⟩
  rw [exec_evalInstr, exec_evalInstr, eval_takeFault]

end Sys2Proof.Machine
end
